-- ==== Sys2Proof/Word.lean ====
section
/-! DEFINITION. The word types of MSC-HAP and the names that command fields stand for. -/

namespace Sys2Proof

/-- One byte of a buffer (20_memory.md R80). -/
abbrev Byte := BitVec 8

/-- A register or command word (10_state.md R21, 30_encoding.md R110). -/
abbrev Word := BitVec 32

/-- The five byte buffers, in the order of their ids 0 to 4 (20_memory.md R80). -/
inductive BufId where
  | ibuf
  | mdbuf
  | plain
  | code
  | obuf
deriving DecidableEq, Repr

/-- The direction field of `ACINIT`: 0 encode, 1 decode (30_encoding.md R111, format D). -/
inductive Dir where
  | encode
  | decode
deriving DecidableEq, Repr

end Sys2Proof
end

