-- ==== Sys2Proof/Syntax.lean ====
section
/-! DEFINITION. The 23 commands of MSC-HAP, one constructor for each row of the opcode table
(30_encoding.md R112), with the operand fields of the row's format (R111). -/

namespace Sys2Proof

/-- A command. `gr` and `ch` are granule and channel index (R13), `tbl` a Huffman table id, `len` a
number of bits. -/
inductive Instr where
  | nop
  | srst
  | clrerr
  | sinit
  | rdbits (buf : BufId) (adv : Bool) (len : Nat)
  | hdr
  | side
  | resv
  | scf (gr ch : Fin 2)
  | adv
  | hufpair (gr ch : Fin 2) (tbl : Fin 32)
  | hufquad (gr ch : Fin 2) (sel : Bool)
  | spec (gr ch : Fin 2)
  | acinit (dir : Dir)
  | acencb (y : Bool)
  | acdecb
  | acflush
  | acenc
  | acdec
  | ser
  | emit
  | frame
  | run
deriving DecidableEq, Repr

end Sys2Proof
end

