-- ==== Sys2Proof/WellFormed.lean ====
section
/-! DEFINITION. Which terms of `Instr` are commands that a command word can carry. -/

namespace Sys2Proof

/-- A term is well formed when every operand is one the command word admits (30_encoding.md R113). The
types of the operands leave one check: the length of a bit read is at most 32. -/
def Instr.wf : Instr → Bool
  | .rdbits _ _ len => decide (len ≤ 32)
  | .nop | .srst | .clrerr | .sinit | .hdr | .side | .resv | .scf _ _ | .adv => true
  | .hufpair _ _ _ | .hufquad _ _ _ | .spec _ _ => true
  | .acinit _ | .acencb _ | .acdecb | .acflush | .acenc | .acdec => true
  | .ser | .emit | .frame | .run => true

end Sys2Proof
end

