-- ==== Sys2Proof/Decode.lean ====
section
/-! DEFINITION. Command words: the decoder, total on every 32-bit word and rejecting by name, and the
encoder, both from the formats of 30_encoding.md R111 and the opcode map R112. -/

namespace Sys2Proof

/-- Why a word is no legal word of any command (30_encoding.md R113). -/
inductive DecodeError where
  /-- (a) bits 31:24 are no opcode of the map. -/
  | unassignedOpcode
  /-- (b) a reserved bit of the format is 1. -/
  | reservedBits
  /-- (c) `RDBITS` with `buf > 4`. -/
  | noSuchBuffer
  /-- (c) `RDBITS` with `len > 32`. -/
  | lengthOver32
deriving DecidableEq, Repr

/-- The id of a buffer (20_memory.md R80). -/
def BufId.id : BufId → Nat
  | .ibuf => 0
  | .mdbuf => 1
  | .plain => 2
  | .code => 3
  | .obuf => 4

/-- The buffer with a given id, if there is one (20_memory.md R80). -/
def bufOfId : Nat → Option BufId
  | 0 => some .ibuf
  | 1 => some .mdbuf
  | 2 => some .plain
  | 3 => some .code
  | 4 => some .obuf
  | _ => none

/-- The bit of a `Dir` operand (30_encoding.md R111, format D). -/
def Dir.bit : Dir → Nat
  | .encode => 0
  | .decode => 1

/-- Bit `i` of a number, as an index 0 or 1. -/
def bitFin (a i : Nat) : Fin 2 := Fin.ofNat 2 (a / 2 ^ i)

/-- Bit `i` of a number. -/
def bitBool (a i : Nat) : Bool := a / 2 ^ i % 2 == 1

/-- A format whose operand bits are the low `n` bits of 23:0, the rest reserved: all formats of R111
but B. -/
def lowField (n a : Nat) (i : Instr) : Except DecodeError Instr :=
  if a < 2 ^ n then .ok i else .error .reservedBits

/-- Format B: `buf` = bits 23:21, `adv` = bit 20, `len` = bits 5:0, 19:6 reserved (R111, R113). -/
def decodeRdbits (a : Nat) : Except DecodeError Instr :=
  if a / 2 ^ 6 % 2 ^ 14 ≠ 0 then .error .reservedBits
  else match bufOfId (a / 2 ^ 21) with
    | none => .error .noSuchBuffer
    | some b =>
      if a % 2 ^ 6 ≤ 32 then .ok (.rdbits b (bitBool a 20) (a % 2 ^ 6)) else .error .lengthOver32

/-- The command of opcode `op` with operand bits `a` = bits 23:0 (R111, R112). -/
def decodeOp (op a : Nat) : Except DecodeError Instr :=
  match op with
  | 0x00 => lowField 0 a .nop
  | 0x01 => lowField 0 a .srst
  | 0x02 => lowField 0 a .clrerr
  | 0x03 => lowField 0 a .sinit
  | 0x10 => decodeRdbits a
  | 0x20 => lowField 0 a .hdr
  | 0x21 => lowField 0 a .side
  | 0x22 => lowField 0 a .resv
  | 0x23 => lowField 2 a (.scf (bitFin a 1) (bitFin a 0))
  | 0x24 => lowField 0 a .adv
  | 0x30 => lowField 7 a (.hufpair (bitFin a 6) (bitFin a 5) (Fin.ofNat 32 a))
  | 0x31 => lowField 3 a (.hufquad (bitFin a 2) (bitFin a 1) (bitBool a 0))
  | 0x32 => lowField 2 a (.spec (bitFin a 1) (bitFin a 0))
  | 0x40 => lowField 1 a (.acinit (if bitBool a 0 then .decode else .encode))
  | 0x41 => lowField 1 a (.acencb (bitBool a 0))
  | 0x42 => lowField 0 a .acdecb
  | 0x43 => lowField 0 a .acflush
  | 0x44 => lowField 0 a .acenc
  | 0x45 => lowField 0 a .acdec
  | 0x50 => lowField 0 a .ser
  | 0x51 => lowField 0 a .emit
  | 0x52 => lowField 0 a .frame
  | 0x53 => lowField 0 a .run
  | _ => .error .unassignedOpcode

/-- The command a word stands for, or why it is illegal (30_encoding.md R110 to R113). -/
def decode (w : Word) : Except DecodeError Instr :=
  decodeOp (w.toNat / 2 ^ 24) (w.toNat % 2 ^ 24)

/-- Opcode in bits 31:24 over the operand bits 23:0 (30_encoding.md R110). -/
def commandWord (op a : Nat) : Word := BitVec.ofNat 32 (op * 2 ^ 24 + a)

/-- The word of a command (30_encoding.md R111, R112). -/
def encode : Instr → Word
  | .nop => commandWord 0x00 0
  | .srst => commandWord 0x01 0
  | .clrerr => commandWord 0x02 0
  | .sinit => commandWord 0x03 0
  | .rdbits b adv len => commandWord 0x10 (b.id * 2 ^ 21 + adv.toNat * 2 ^ 20 + len)
  | .hdr => commandWord 0x20 0
  | .side => commandWord 0x21 0
  | .resv => commandWord 0x22 0
  | .scf gr ch => commandWord 0x23 (gr.val * 2 + ch.val)
  | .adv => commandWord 0x24 0
  | .hufpair gr ch tbl => commandWord 0x30 (gr.val * 2 ^ 6 + ch.val * 2 ^ 5 + tbl.val)
  | .hufquad gr ch sel => commandWord 0x31 (gr.val * 2 ^ 2 + ch.val * 2 + sel.toNat)
  | .spec gr ch => commandWord 0x32 (gr.val * 2 + ch.val)
  | .acinit dir => commandWord 0x40 dir.bit
  | .acencb y => commandWord 0x41 y.toNat
  | .acdecb => commandWord 0x42 0
  | .acflush => commandWord 0x43 0
  | .acenc => commandWord 0x44 0
  | .acdec => commandWord 0x45 0
  | .ser => commandWord 0x50 0
  | .emit => commandWord 0x51 0
  | .frame => commandWord 0x52 0
  | .run => commandWord 0x53 0

/-- The instruction the decoder reads from a row's bits, numbered as the opcode table numbers them: a
command is one 32-bit word (30_encoding.md R110), so bits at and above `nbits` are 0. -/
def decodeTableWord (nbits w : Nat) : Option Instr :=
  match decode (BitVec.ofNat 32 (w % 2 ^ nbits)) with
  | .ok i => some i
  | .error _ => none

end Sys2Proof
end

