-- ==== Sys2Proof/Machine/Memory.lean ====
section
/-! DEFINITION. How memory is held. A `Memory` is a list of (address, value) cells in one canonical form:
addresses strictly rising, and no cell equal to what an unlisted address reads as, which is 0 (every
memory resets to all zeros and a buffer's bytes are all written when they come to exist,
70_reset_and_hazards.md R390, 20_memory.md R80). A byte buffer is its length and the cells below it. -/

namespace Sys2Proof.Machine

/-- A memory of `w`-bit elements: at width 8 its cells are `Host.Cell`. -/
abbrev Memory (w : Nat) := List (Nat × BitVec w)

/-- The element at an address; an unlisted address reads 0. -/
def Memory.read {w : Nat} : Memory w → Nat → BitVec w
  | [], _ => 0
  | (a, v) :: m, k => if k = a then v else Memory.read m k

/-- The memory without the cells at addresses `lo ≤ a < hi`: those addresses then read 0. -/
def Memory.clear {w : Nat} (m : Memory w) (lo hi : Nat) : Memory w :=
  m.filter fun p => !(decide (lo ≤ p.1) && decide (p.1 < hi))

/-- A cell put at its place in the rising order. -/
def Memory.insert {w : Nat} (k : Nat) (v : BitVec w) : Memory w → Memory w
  | [] => [(k, v)]
  | (a, x) :: m => if k < a then (k, v) :: (a, x) :: m else (a, x) :: Memory.insert k v m

/-- One element written; writing 0 removes its cell. -/
def Memory.write {w : Nat} (m : Memory w) (k : Nat) (v : BitVec w) : Memory w :=
  if v = 0 then Memory.clear m k (k + 1) else Memory.insert k v (Memory.clear m k (k + 1))

/-- Several elements written, first to last. -/
def Memory.writeAll {w : Nat} (m : Memory w) (kvs : List (Nat × BitVec w)) : Memory w :=
  kvs.foldl (fun m kv => Memory.write m kv.1 kv.2) m

/-- The canonical form: addresses strictly rising from `lo` on and below `hi`, no cell holding 0. -/
def Memory.wfFrom {w : Nat} (hi : Nat) : Nat → Memory w → Bool
  | _, [] => true
  | lo, (a, v) :: m => decide (lo ≤ a) && decide (a < hi) && (v != 0) && Memory.wfFrom hi (a + 1) m

/-- The canonical form of a memory of `n` elements. -/
def Memory.wf {w : Nat} (n : Nat) (m : Memory w) : Bool := Memory.wfFrom n 0 m

/-- A byte buffer: "the pair (length, bytes)" (20_memory.md R80). -/
structure Buffer where
  len : Nat
  cells : List Host.Cell
deriving DecidableEq, Repr

/-- The empty buffer, `Clear(S)` (00_scope.md R10). -/
def Buffer.empty : Buffer := ⟨0, []⟩

/-- The byte at an address; at or beyond the length there is none and the value is 0 (20_memory.md R84,
R88). -/
def Buffer.read (b : Buffer) (a : Nat) : Byte := if a < b.len then Memory.read b.cells a else 0

/-- `Append(S, v)` without its capacity test: the byte at the end, the length one more (R10). -/
def Buffer.append (b : Buffer) (v : Byte) : Buffer := ⟨b.len + 1, Memory.write b.cells b.len v⟩

/-- The cells of a list of bytes laid out from address `k`. -/
def cellsFrom : Nat → List Byte → List Host.Cell
  | _, [] => []
  | k, v :: vs => if v = 0 then cellsFrom (k + 1) vs else (k, v) :: cellsFrom (k + 1) vs

/-- A buffer holding exactly the given bytes (`BufLoad`, 20_memory.md R81). -/
def Buffer.ofBytes (vs : List Byte) : Buffer := ⟨vs.length, cellsFrom 0 vs⟩

/-- The `n` bytes from address `a` on. -/
def Buffer.slice (b : Buffer) (a n : Nat) : List Byte := (List.range n).map fun i => b.read (a + i)

/-- All bytes of a buffer. -/
def Buffer.bytes (b : Buffer) : List Byte := b.slice 0 b.len

/-- The canonical form of a buffer: a canonical memory below its length. -/
def Buffer.wf (b : Buffer) : Bool := Memory.wf b.len b.cells

/-- Bit `i` of a buffer: bit offset 0 is the most significant bit of byte 0 (00_scope.md R8). -/
def Buffer.bit (b : Buffer) (i : Nat) : Bool := (b.read (i / 8)).getMsbD (i % 8)

/-- The value of `ReadBits(S, off, n)`: the bits at `off, …, off + n - 1`, first bit most significant,
bits beyond the end 0 (40_control_and_bitreader.md R164). -/
def Buffer.bits (b : Buffer) (off : Nat) : Nat → Nat
  | 0 => 0
  | n + 1 => 2 * b.bits off n + (b.bit (off + n)).toNat

/-- The bit offset of the first missing bit of a read of `n` bits at `off`, if one is missing:
`max(off, 8 · Len(S))` (20_memory.md R84). -/
def Buffer.missing (b : Buffer) (off n : Nat) : Option Nat :=
  if 0 < n ∧ 8 * b.len < off + n then some (max off (8 * b.len)) else none

end Sys2Proof.Machine
end

