-- ==== Sys2Proof/Config.lean ====
section
/-! DEFINITION. The configuration of the block: the shape of its read-only tables and of its open
parameters (00_scope.md R6, R7; 20_memory.md R83). It is plain data and stands in State, so that what
is proved of every state is proved for every choice of them (assumption log 3, 4, 5). -/

namespace Sys2Proof

/-- One code word of a Huffman table: `code`, read as a string of `len` bits (42_spectrum_huffman.md
R231). -/
structure CodeWord where
  code : Nat
  len : Nat
deriving DecidableEq, Repr

/-- One Huffman pair tree: `dim · dim` code words, entry `x · dim + y` for the pair `(x, y)` (R231). -/
structure Tree where
  dim : Nat
  entries : List CodeWord
deriving DecidableEq, Repr

/-- `BITRATE_TAB`, one row for each (version class, layer), in kbit/s, entry 0 for index 1
(41_frame_parser.md R183). -/
structure BitrateTab where
  v1l1 : List Nat
  v1l2 : List Nat
  v1l3 : List Nat
  v2l1 : List Nat
  v2l2 : List Nat
  v2l3 : List Nat
deriving DecidableEq, Repr

/-- `SRATE_TAB`, one row for each version code, in Hz, entry `sri` (R183). -/
structure SrateTab where
  mpeg1 : List Nat
  mpeg2 : List Nat
  mpeg25 : List Nat
deriving DecidableEq, Repr

/-- `SPF_TAB`, samples per frame, entry `layer - 1` (R183). -/
structure SpfTab where
  mpeg1 : List Nat
  mpeg2 : List Nat
  mpeg25 : List Nat
deriving DecidableEq, Repr

/-- Everything the block is configured with for a whole run (00_scope.md R6, R7). A capacity `none` is
unbounded; `regionMap` overrides the default `region_of`: entry `[n][k]` for `CFG_NREG = n` and byte
index `k`. -/
structure Config where
  htab : List (Nat × Tree)
  qtabA : List CodeWord
  linbitsTab : List Nat
  bitrateTab : BitrateTab
  srateTab : SrateTab
  spfTab : SpfTab
  slenTab : List (Nat × Nat)
  sfbLongTab : List (List Nat)
  regionMap : List (List Nat)
  ibufCap : Option Nat
  plainCap : Option Nat
  codeCap : Option Nat
  obufCap : Option Nat
deriving DecidableEq, Repr

end Sys2Proof
end

