-- ==== Sys2Proof/Machine/Tables.lean ====
section
/-! DEFINITION. The default contents of the read-only tables (43_huffman_code_tables.md, 41, 42) and the
lookups over a `Config`. The defaults are the spec's own from general knowledge of MPEG audio (K5, K9,
K11, K12, K15, K17; assumption log 3).

In a tree, line `x` of the listing (R261) is one list of the entries joined by `++`: the code words of
`(x, 0), (x, 1), …` in order; the binary digits of a code word are the listing's string, and the number
after them is that string's length. -/

namespace Sys2Proof

/-- R262, tree 1 (table id 1). -/
def tree1 : Tree where
  dim := 2
  entries :=
    [⟨0b1, 1⟩, ⟨0b001, 3⟩] ++
    [⟨0b01, 2⟩, ⟨0b000, 3⟩]

/-- R263, tree 2 (table id 2). -/
def tree2 : Tree where
  dim := 3
  entries :=
    [⟨0b1, 1⟩, ⟨0b010, 3⟩, ⟨0b000001, 6⟩] ++
    [⟨0b011, 3⟩, ⟨0b001, 3⟩, ⟨0b00001, 5⟩] ++
    [⟨0b00011, 5⟩, ⟨0b00010, 5⟩, ⟨0b000000, 6⟩]

/-- R264, tree 3 (table id 3). -/
def tree3 : Tree where
  dim := 3
  entries :=
    [⟨0b11, 2⟩, ⟨0b10, 2⟩, ⟨0b000001, 6⟩] ++
    [⟨0b001, 3⟩, ⟨0b01, 2⟩, ⟨0b00001, 5⟩] ++
    [⟨0b00011, 5⟩, ⟨0b00010, 5⟩, ⟨0b000000, 6⟩]

/-- R265, tree 5 (table id 5). -/
def tree5 : Tree where
  dim := 4
  entries :=
    [⟨0b1, 1⟩, ⟨0b010, 3⟩, ⟨0b000110, 6⟩, ⟨0b0000101, 7⟩] ++
    [⟨0b011, 3⟩, ⟨0b001, 3⟩, ⟨0b000100, 6⟩, ⟨0b0000100, 7⟩] ++
    [⟨0b000111, 6⟩, ⟨0b000101, 6⟩, ⟨0b0000111, 7⟩, ⟨0b00000001, 8⟩] ++
    [⟨0b0000110, 7⟩, ⟨0b000001, 6⟩, ⟨0b0000001, 7⟩, ⟨0b00000000, 8⟩]

/-- R266, tree 6 (table id 6). -/
def tree6 : Tree where
  dim := 4
  entries :=
    [⟨0b111, 3⟩, ⟨0b011, 3⟩, ⟨0b00101, 5⟩, ⟨0b0000001, 7⟩] ++
    [⟨0b110, 3⟩, ⟨0b10, 2⟩, ⟨0b0011, 4⟩, ⟨0b00010, 5⟩] ++
    [⟨0b0101, 4⟩, ⟨0b0100, 4⟩, ⟨0b00100, 5⟩, ⟨0b000001, 6⟩] ++
    [⟨0b000011, 6⟩, ⟨0b00011, 5⟩, ⟨0b000010, 6⟩, ⟨0b0000000, 7⟩]

/-- R267, tree 7 (table id 7). -/
def tree7 : Tree where
  dim := 6
  entries :=
    [⟨0b1, 1⟩, ⟨0b010, 3⟩, ⟨0b001010, 6⟩, ⟨0b00010011, 8⟩, ⟨0b00010000, 8⟩, ⟨0b000001010, 9⟩] ++
    [⟨0b011, 3⟩, ⟨0b0011, 4⟩, ⟨0b000111, 6⟩, ⟨0b0001010, 7⟩, ⟨0b0000101, 7⟩, ⟨0b00000011, 8⟩] ++
    [⟨0b001011, 6⟩, ⟨0b00100, 5⟩, ⟨0b0001101, 7⟩, ⟨0b00010001, 8⟩, ⟨0b00001000, 8⟩,
     ⟨0b000000100, 9⟩] ++
    [⟨0b0001100, 7⟩, ⟨0b0001011, 7⟩, ⟨0b00010010, 8⟩, ⟨0b000001111, 9⟩, ⟨0b000001011, 9⟩,
     ⟨0b000000010, 9⟩] ++
    [⟨0b0000111, 7⟩, ⟨0b0000110, 7⟩, ⟨0b00001001, 8⟩, ⟨0b000001110, 9⟩, ⟨0b000000011, 9⟩,
     ⟨0b0000000001, 10⟩] ++
    [⟨0b00000110, 8⟩, ⟨0b00000100, 8⟩, ⟨0b000000101, 9⟩, ⟨0b0000000011, 10⟩, ⟨0b0000000010, 10⟩,
     ⟨0b0000000000, 10⟩]

/-- R268, tree 8 (table id 8). -/
def tree8 : Tree where
  dim := 6
  entries :=
    [⟨0b11, 2⟩, ⟨0b100, 3⟩, ⟨0b000110, 6⟩, ⟨0b00010010, 8⟩, ⟨0b00001100, 8⟩, ⟨0b000000101, 9⟩] ++
    [⟨0b101, 3⟩, ⟨0b01, 2⟩, ⟨0b0010, 4⟩, ⟨0b00010000, 8⟩, ⟨0b00001001, 8⟩, ⟨0b00000011, 8⟩] ++
    [⟨0b000111, 6⟩, ⟨0b0011, 4⟩, ⟨0b000101, 6⟩, ⟨0b00001110, 8⟩, ⟨0b00000111, 8⟩, ⟨0b000000011, 9⟩] ++
    [⟨0b00010011, 8⟩, ⟨0b00010001, 8⟩, ⟨0b00001111, 8⟩, ⟨0b000001101, 9⟩, ⟨0b000001010, 9⟩,
     ⟨0b0000000100, 10⟩] ++
    [⟨0b00001101, 8⟩, ⟨0b0000101, 7⟩, ⟨0b00001000, 8⟩, ⟨0b000001011, 9⟩, ⟨0b0000000101, 10⟩,
     ⟨0b0000000001, 10⟩] ++
    [⟨0b000001100, 9⟩, ⟨0b00000100, 8⟩, ⟨0b000000100, 9⟩, ⟨0b000000001, 9⟩, ⟨0b00000000001, 11⟩,
     ⟨0b00000000000, 11⟩]

/-- R269, tree 9 (table id 9). -/
def tree9 : Tree where
  dim := 6
  entries :=
    [⟨0b111, 3⟩, ⟨0b101, 3⟩, ⟨0b01001, 5⟩, ⟨0b001110, 6⟩, ⟨0b00001111, 8⟩, ⟨0b000000111, 9⟩] ++
    [⟨0b110, 3⟩, ⟨0b100, 3⟩, ⟨0b0101, 4⟩, ⟨0b00101, 5⟩, ⟨0b000110, 6⟩, ⟨0b00000111, 8⟩] ++
    [⟨0b0111, 4⟩, ⟨0b0110, 4⟩, ⟨0b01000, 5⟩, ⟨0b001000, 6⟩, ⟨0b0001000, 7⟩, ⟨0b00000101, 8⟩] ++
    [⟨0b001111, 6⟩, ⟨0b00110, 5⟩, ⟨0b001001, 6⟩, ⟨0b0001010, 7⟩, ⟨0b0000101, 7⟩, ⟨0b00000001, 8⟩] ++
    [⟨0b0001011, 7⟩, ⟨0b000111, 6⟩, ⟨0b0001001, 7⟩, ⟨0b0000110, 7⟩, ⟨0b00000100, 8⟩,
     ⟨0b000000001, 9⟩] ++
    [⟨0b00001110, 8⟩, ⟨0b0000100, 7⟩, ⟨0b00000110, 8⟩, ⟨0b00000010, 8⟩, ⟨0b000000110, 9⟩,
     ⟨0b000000000, 9⟩]

/-- R270, tree 10 (table id 10). -/
def tree10 : Tree where
  dim := 8
  entries :=
    [⟨0b1, 1⟩, ⟨0b010, 3⟩, ⟨0b001010, 6⟩, ⟨0b00010111, 8⟩, ⟨0b000100011, 9⟩, ⟨0b000011110, 9⟩,
     ⟨0b000001100, 9⟩, ⟨0b0000010001, 10⟩] ++
    [⟨0b011, 3⟩, ⟨0b0011, 4⟩, ⟨0b001000, 6⟩, ⟨0b0001100, 7⟩, ⟨0b00010010, 8⟩, ⟨0b000010101, 9⟩,
     ⟨0b00001100, 8⟩, ⟨0b00000111, 8⟩] ++
    [⟨0b001011, 6⟩, ⟨0b001001, 6⟩, ⟨0b0001111, 7⟩, ⟨0b00010101, 8⟩, ⟨0b000100000, 9⟩,
     ⟨0b0000101000, 10⟩, ⟨0b000010011, 9⟩, ⟨0b000000110, 9⟩] ++
    [⟨0b0001110, 7⟩, ⟨0b0001101, 7⟩, ⟨0b00010110, 8⟩, ⟨0b000100010, 9⟩, ⟨0b0000101110, 10⟩,
     ⟨0b0000010111, 10⟩, ⟨0b000010010, 9⟩, ⟨0b0000000111, 10⟩] ++
    [⟨0b00010100, 8⟩, ⟨0b00010011, 8⟩, ⟨0b000100001, 9⟩, ⟨0b0000101111, 10⟩, ⟨0b0000011011, 10⟩,
     ⟨0b0000010110, 10⟩, ⟨0b0000001001, 10⟩, ⟨0b0000000011, 10⟩] ++
    [⟨0b000011111, 9⟩, ⟨0b000010110, 9⟩, ⟨0b0000101001, 10⟩, ⟨0b0000011010, 10⟩,
     ⟨0b00000010101, 11⟩, ⟨0b00000010100, 11⟩, ⟨0b0000000101, 10⟩, ⟨0b00000000011, 11⟩] ++
    [⟨0b00001110, 8⟩, ⟨0b00001101, 8⟩, ⟨0b000001010, 9⟩, ⟨0b0000001011, 10⟩, ⟨0b0000010000, 10⟩,
     ⟨0b0000000110, 10⟩, ⟨0b00000000101, 11⟩, ⟨0b00000000001, 11⟩] ++
    [⟨0b000001001, 9⟩, ⟨0b00001000, 8⟩, ⟨0b000000111, 9⟩, ⟨0b0000001000, 10⟩, ⟨0b0000000100, 10⟩,
     ⟨0b00000000100, 11⟩, ⟨0b00000000010, 11⟩, ⟨0b00000000000, 11⟩]

/-- R271, tree 11 (table id 11). -/
def tree11 : Tree where
  dim := 8
  entries :=
    [⟨0b11, 2⟩, ⟨0b100, 3⟩, ⟨0b01010, 5⟩, ⟨0b0011000, 7⟩, ⟨0b00100010, 8⟩, ⟨0b000100001, 9⟩,
     ⟨0b00010101, 8⟩, ⟨0b000001111, 9⟩] ++
    [⟨0b101, 3⟩, ⟨0b011, 3⟩, ⟨0b0100, 4⟩, ⟨0b001010, 6⟩, ⟨0b00100000, 8⟩, ⟨0b00010001, 8⟩,
     ⟨0b0001011, 7⟩, ⟨0b00001010, 8⟩] ++
    [⟨0b01011, 5⟩, ⟨0b00111, 5⟩, ⟨0b001101, 6⟩, ⟨0b0010010, 7⟩, ⟨0b00011110, 8⟩, ⟨0b000011111, 9⟩,
     ⟨0b00010100, 8⟩, ⟨0b00000101, 8⟩] ++
    [⟨0b0011001, 7⟩, ⟨0b001011, 6⟩, ⟨0b0010011, 7⟩, ⟨0b000111011, 9⟩, ⟨0b00011011, 8⟩,
     ⟨0b0000010010, 10⟩, ⟨0b00001100, 8⟩, ⟨0b000000101, 9⟩] ++
    [⟨0b00100011, 8⟩, ⟨0b00100001, 8⟩, ⟨0b00011111, 8⟩, ⟨0b000111010, 9⟩, ⟨0b000011110, 9⟩,
     ⟨0b0000010000, 10⟩, ⟨0b000000111, 9⟩, ⟨0b0000000101, 10⟩] ++
    [⟨0b00011100, 8⟩, ⟨0b00011010, 8⟩, ⟨0b000100000, 9⟩, ⟨0b0000010011, 10⟩, ⟨0b0000010001, 10⟩,
     ⟨0b00000001111, 11⟩, ⟨0b0000001000, 10⟩, ⟨0b00000001110, 11⟩] ++
    [⟨0b00001110, 8⟩, ⟨0b0001100, 7⟩, ⟨0b0001001, 7⟩, ⟨0b00001101, 8⟩, ⟨0b000001110, 9⟩,
     ⟨0b0000001001, 10⟩, ⟨0b0000000100, 10⟩, ⟨0b0000000001, 10⟩] ++
    [⟨0b00001011, 8⟩, ⟨0b0000100, 7⟩, ⟨0b00000110, 8⟩, ⟨0b000000110, 9⟩, ⟨0b0000000110, 10⟩,
     ⟨0b0000000011, 10⟩, ⟨0b0000000010, 10⟩, ⟨0b0000000000, 10⟩]

/-- R272, tree 12 (table id 12). -/
def tree12 : Tree where
  dim := 8
  entries :=
    [⟨0b1001, 4⟩, ⟨0b110, 3⟩, ⟨0b10000, 5⟩, ⟨0b0100001, 7⟩, ⟨0b00101001, 8⟩, ⟨0b000100111, 9⟩,
     ⟨0b000100110, 9⟩, ⟨0b000011010, 9⟩] ++
    [⟨0b111, 3⟩, ⟨0b101, 3⟩, ⟨0b0110, 4⟩, ⟨0b01001, 5⟩, ⟨0b0010111, 7⟩, ⟨0b0010000, 7⟩,
     ⟨0b00011010, 8⟩, ⟨0b00001011, 8⟩] ++
    [⟨0b10001, 5⟩, ⟨0b0111, 4⟩, ⟨0b01011, 5⟩, ⟨0b001110, 6⟩, ⟨0b0010101, 7⟩, ⟨0b00011110, 8⟩,
     ⟨0b0001010, 7⟩, ⟨0b00000111, 8⟩] ++
    [⟨0b010001, 6⟩, ⟨0b01010, 5⟩, ⟨0b001111, 6⟩, ⟨0b001100, 6⟩, ⟨0b0010010, 7⟩, ⟨0b00011100, 8⟩,
     ⟨0b00001110, 8⟩, ⟨0b00000101, 8⟩] ++
    [⟨0b0100000, 7⟩, ⟨0b001101, 6⟩, ⟨0b0010110, 7⟩, ⟨0b0010011, 7⟩, ⟨0b00010010, 8⟩,
     ⟨0b00010000, 8⟩, ⟨0b00001001, 8⟩, ⟨0b000000101, 9⟩] ++
    [⟨0b00101000, 8⟩, ⟨0b0010001, 7⟩, ⟨0b00011111, 8⟩, ⟨0b00011101, 8⟩, ⟨0b00010001, 8⟩,
     ⟨0b000001101, 9⟩, ⟨0b00000100, 8⟩, ⟨0b000000010, 9⟩] ++
    [⟨0b00011011, 8⟩, ⟨0b0001100, 7⟩, ⟨0b0001011, 7⟩, ⟨0b00001111, 8⟩, ⟨0b00001010, 8⟩,
     ⟨0b000000111, 9⟩, ⟨0b000000100, 9⟩, ⟨0b0000000001, 10⟩] ++
    [⟨0b000011011, 9⟩, ⟨0b00001100, 8⟩, ⟨0b00001000, 8⟩, ⟨0b000001100, 9⟩, ⟨0b000000110, 9⟩,
     ⟨0b000000011, 9⟩, ⟨0b000000001, 9⟩, ⟨0b0000000000, 10⟩]

/-- R273, tree 13 (table id 13). -/
def tree13 : Tree where
  dim := 16
  entries :=
    [⟨0b1, 1⟩, ⟨0b0101, 4⟩, ⟨0b001110, 6⟩, ⟨0b0010101, 7⟩, ⟨0b00100010, 8⟩, ⟨0b000110011, 9⟩,
     ⟨0b000101110, 9⟩, ⟨0b0001000111, 10⟩, ⟨0b000101010, 9⟩, ⟨0b0000110100, 10⟩,
     ⟨0b00001000100, 11⟩, ⟨0b00000110100, 11⟩, ⟨0b000001000011, 12⟩, ⟨0b000000101100, 12⟩,
     ⟨0b0000000101011, 13⟩, ⟨0b0000000010011, 13⟩] ++
    [⟨0b011, 3⟩, ⟨0b0100, 4⟩, ⟨0b001100, 6⟩, ⟨0b0010011, 7⟩, ⟨0b00011111, 8⟩, ⟨0b00011010, 8⟩,
     ⟨0b000101100, 9⟩, ⟨0b000100001, 9⟩, ⟨0b000011111, 9⟩, ⟨0b000011000, 9⟩, ⟨0b0000100000, 10⟩,
     ⟨0b0000011000, 10⟩, ⟨0b00000011111, 11⟩, ⟨0b000000100011, 12⟩, ⟨0b000000010110, 12⟩,
     ⟨0b000000001110, 12⟩] ++
    [⟨0b001111, 6⟩, ⟨0b001101, 6⟩, ⟨0b0010111, 7⟩, ⟨0b00100100, 8⟩, ⟨0b000111011, 9⟩,
     ⟨0b000110001, 9⟩, ⟨0b0001001101, 10⟩, ⟨0b0001000001, 10⟩, ⟨0b000011101, 9⟩,
     ⟨0b0000101000, 10⟩, ⟨0b0000011110, 10⟩, ⟨0b00000101000, 11⟩, ⟨0b00000011011, 11⟩,
     ⟨0b000000100001, 12⟩, ⟨0b0000000101010, 13⟩, ⟨0b0000000010000, 13⟩] ++
    [⟨0b0010110, 7⟩, ⟨0b0010100, 7⟩, ⟨0b00100101, 8⟩, ⟨0b000111101, 9⟩, ⟨0b000111000, 9⟩,
     ⟨0b0001001111, 10⟩, ⟨0b0001001001, 10⟩, ⟨0b0001000000, 10⟩, ⟨0b0000101011, 10⟩,
     ⟨0b00001001100, 11⟩, ⟨0b00000111000, 11⟩, ⟨0b00000100101, 11⟩, ⟨0b00000011010, 11⟩,
     ⟨0b000000011111, 12⟩, ⟨0b0000000011001, 13⟩, ⟨0b0000000001110, 13⟩] ++
    [⟨0b00100011, 8⟩, ⟨0b0010000, 7⟩, ⟨0b000111100, 9⟩, ⟨0b000111001, 9⟩, ⟨0b0001100001, 10⟩,
     ⟨0b0001001011, 10⟩, ⟨0b00001110010, 11⟩, ⟨0b00001011011, 11⟩, ⟨0b0000110110, 10⟩,
     ⟨0b00001001001, 11⟩, ⟨0b00000110111, 11⟩, ⟨0b000000101001, 12⟩, ⟨0b000000110000, 12⟩,
     ⟨0b0000000110101, 13⟩, ⟨0b0000000010111, 13⟩, ⟨0b00000000011000, 14⟩] ++
    [⟨0b000111010, 9⟩, ⟨0b00011011, 8⟩, ⟨0b000110010, 9⟩, ⟨0b0001100000, 10⟩, ⟨0b0001001100, 10⟩,
     ⟨0b0001000110, 10⟩, ⟨0b00001011101, 11⟩, ⟨0b00001010100, 11⟩, ⟨0b00001001101, 11⟩,
     ⟨0b00000111010, 11⟩, ⟨0b000001001111, 12⟩, ⟨0b00000011101, 11⟩, ⟨0b0000001001010, 13⟩,
     ⟨0b0000000110001, 13⟩, ⟨0b00000000101001, 14⟩, ⟨0b00000000010001, 14⟩] ++
    [⟨0b000101111, 9⟩, ⟨0b000101101, 9⟩, ⟨0b0001001110, 10⟩, ⟨0b0001001010, 10⟩,
     ⟨0b00001110011, 11⟩, ⟨0b00001011110, 11⟩, ⟨0b00001011010, 11⟩, ⟨0b00001001111, 11⟩,
     ⟨0b00001000101, 11⟩, ⟨0b000001010011, 12⟩, ⟨0b000001000111, 12⟩, ⟨0b000000110010, 12⟩,
     ⟨0b0000000111011, 13⟩, ⟨0b0000000100110, 13⟩, ⟨0b00000000100100, 14⟩, ⟨0b00000000001111, 14⟩] ++
    [⟨0b0001001000, 10⟩, ⟨0b000100010, 9⟩, ⟨0b0000111000, 10⟩, ⟨0b00001011111, 11⟩,
     ⟨0b00001011100, 11⟩, ⟨0b00001010101, 11⟩, ⟨0b000001011011, 12⟩, ⟨0b000001011010, 12⟩,
     ⟨0b000001010110, 12⟩, ⟨0b000001001001, 12⟩, ⟨0b0000001001101, 13⟩, ⟨0b0000001000001, 13⟩,
     ⟨0b0000000110011, 13⟩, ⟨0b00000000101100, 14⟩, ⟨0b0000000000101011, 16⟩,
     ⟨0b0000000000101010, 16⟩] ++
    [⟨0b000101011, 9⟩, ⟨0b00010100, 8⟩, ⟨0b000011110, 9⟩, ⟨0b0000101100, 10⟩, ⟨0b0000110111, 10⟩,
     ⟨0b00001001110, 11⟩, ⟨0b00001001000, 11⟩, ⟨0b000001010111, 12⟩, ⟨0b000001001110, 12⟩,
     ⟨0b000000111101, 12⟩, ⟨0b000000101110, 12⟩, ⟨0b0000000110110, 13⟩, ⟨0b0000000100101, 13⟩,
     ⟨0b00000000011110, 14⟩, ⟨0b000000000010100, 15⟩, ⟨0b000000000010000, 15⟩] ++
    [⟨0b0000110101, 10⟩, ⟨0b000011001, 9⟩, ⟨0b0000101001, 10⟩, ⟨0b0000100101, 10⟩,
     ⟨0b00000101100, 11⟩, ⟨0b00000111011, 11⟩, ⟨0b00000110110, 11⟩, ⟨0b0000001010001, 13⟩,
     ⟨0b000001000010, 12⟩, ⟨0b0000001001100, 13⟩, ⟨0b0000000111001, 13⟩, ⟨0b00000000110110, 14⟩,
     ⟨0b00000000100101, 14⟩, ⟨0b00000000010010, 14⟩, ⟨0b0000000000100111, 16⟩,
     ⟨0b000000000001011, 15⟩] ++
    [⟨0b0000100011, 10⟩, ⟨0b0000100001, 10⟩, ⟨0b0000011111, 10⟩, ⟨0b00000111001, 11⟩,
     ⟨0b00000101010, 11⟩, ⟨0b000001010010, 12⟩, ⟨0b000001001000, 12⟩, ⟨0b0000001010000, 13⟩,
     ⟨0b000000101111, 12⟩, ⟨0b0000000111010, 13⟩, ⟨0b00000000110111, 14⟩, ⟨0b0000000010101, 13⟩,
     ⟨0b00000000010110, 14⟩, ⟨0b000000000011010, 15⟩, ⟨0b0000000000100110, 16⟩,
     ⟨0b00000000000010110, 17⟩] ++
    [⟨0b00000110101, 11⟩, ⟨0b0000011001, 10⟩, ⟨0b0000010111, 10⟩, ⟨0b00000100110, 11⟩,
     ⟨0b000001000110, 12⟩, ⟨0b000000111100, 12⟩, ⟨0b000000110011, 12⟩, ⟨0b000000100100, 12⟩,
     ⟨0b0000000110111, 13⟩, ⟨0b0000000011010, 13⟩, ⟨0b0000000100010, 13⟩, ⟨0b00000000010111, 14⟩,
     ⟨0b000000000011011, 15⟩, ⟨0b000000000001110, 15⟩, ⟨0b000000000001001, 15⟩,
     ⟨0b0000000000000111, 16⟩] ++
    [⟨0b00000100010, 11⟩, ⟨0b00000100000, 11⟩, ⟨0b00000011100, 11⟩, ⟨0b000000100111, 12⟩,
     ⟨0b000000110001, 12⟩, ⟨0b0000001001011, 13⟩, ⟨0b000000011110, 12⟩, ⟨0b0000000110100, 13⟩,
     ⟨0b00000000110000, 14⟩, ⟨0b00000000101000, 14⟩, ⟨0b000000000110100, 15⟩,
     ⟨0b000000000011100, 15⟩, ⟨0b000000000010010, 15⟩, ⟨0b0000000000010001, 16⟩,
     ⟨0b0000000000001001, 16⟩, ⟨0b0000000000000101, 16⟩] ++
    [⟨0b000000101101, 12⟩, ⟨0b00000010101, 11⟩, ⟨0b000000100010, 12⟩, ⟨0b0000001000000, 13⟩,
     ⟨0b0000000111000, 13⟩, ⟨0b0000000110010, 13⟩, ⟨0b00000000110001, 14⟩, ⟨0b00000000101101, 14⟩,
     ⟨0b00000000011111, 14⟩, ⟨0b00000000010011, 14⟩, ⟨0b00000000001100, 14⟩,
     ⟨0b000000000001111, 15⟩, ⟨0b0000000000001010, 16⟩, ⟨0b000000000000111, 15⟩,
     ⟨0b0000000000000110, 16⟩, ⟨0b0000000000000011, 16⟩] ++
    [⟨0b0000000110000, 13⟩, ⟨0b000000010111, 12⟩, ⟨0b000000010100, 12⟩, ⟨0b0000000100111, 13⟩,
     ⟨0b0000000100100, 13⟩, ⟨0b0000000100011, 13⟩, ⟨0b000000000110101, 15⟩, ⟨0b00000000010101, 14⟩,
     ⟨0b00000000010000, 14⟩, ⟨0b00000000000010111, 17⟩, ⟨0b000000000001101, 15⟩,
     ⟨0b000000000001010, 15⟩, ⟨0b000000000000110, 15⟩, ⟨0b00000000000000001, 17⟩,
     ⟨0b0000000000000100, 16⟩, ⟨0b0000000000000010, 16⟩] ++
    [⟨0b000000010000, 12⟩, ⟨0b000000001111, 12⟩, ⟨0b0000000010001, 13⟩, ⟨0b00000000011011, 14⟩,
     ⟨0b00000000011001, 14⟩, ⟨0b00000000010100, 14⟩, ⟨0b000000000011101, 15⟩,
     ⟨0b00000000001011, 14⟩, ⟨0b000000000010001, 15⟩, ⟨0b000000000001100, 15⟩,
     ⟨0b0000000000010000, 16⟩, ⟨0b0000000000001000, 16⟩, ⟨0b0000000000000000001, 19⟩,
     ⟨0b000000000000000001, 18⟩, ⟨0b0000000000000000000, 19⟩, ⟨0b0000000000000001, 16⟩]

/-- R274, tree 15 (table id 15). -/
def tree15 : Tree where
  dim := 16
  entries :=
    [⟨0b111, 3⟩, ⟨0b1100, 4⟩, ⟨0b10010, 5⟩, ⟨0b0110101, 7⟩, ⟨0b0101111, 7⟩, ⟨0b01001100, 8⟩,
     ⟨0b001111100, 9⟩, ⟨0b001101100, 9⟩, ⟨0b001011001, 9⟩, ⟨0b0001111011, 10⟩, ⟨0b0001101100, 10⟩,
     ⟨0b00001110111, 11⟩, ⟨0b00001101011, 11⟩, ⟨0b00001010001, 11⟩, ⟨0b000001111010, 12⟩,
     ⟨0b0000000111111, 13⟩] ++
    [⟨0b1101, 4⟩, ⟨0b101, 3⟩, ⟨0b10000, 5⟩, ⟨0b011011, 6⟩, ⟨0b0101110, 7⟩, ⟨0b0100100, 7⟩,
     ⟨0b00111101, 8⟩, ⟨0b00110011, 8⟩, ⟨0b00101010, 8⟩, ⟨0b001000110, 9⟩, ⟨0b000110100, 9⟩,
     ⟨0b0001010011, 10⟩, ⟨0b0001000001, 10⟩, ⟨0b0000101001, 10⟩, ⟨0b00000111011, 11⟩,
     ⟨0b00000100100, 11⟩] ++
    [⟨0b10011, 5⟩, ⟨0b10001, 5⟩, ⟨0b01111, 5⟩, ⟨0b011000, 6⟩, ⟨0b0101001, 7⟩, ⟨0b0100010, 7⟩,
     ⟨0b00111011, 8⟩, ⟨0b00110000, 8⟩, ⟨0b00101000, 8⟩, ⟨0b001000000, 9⟩, ⟨0b000110010, 9⟩,
     ⟨0b0001001110, 10⟩, ⟨0b0000111110, 10⟩, ⟨0b00001010000, 11⟩, ⟨0b00000111000, 11⟩,
     ⟨0b00000100001, 11⟩] ++
    [⟨0b011101, 6⟩, ⟨0b011100, 6⟩, ⟨0b011001, 6⟩, ⟨0b0101011, 7⟩, ⟨0b0100111, 7⟩, ⟨0b00111111, 8⟩,
     ⟨0b00110111, 8⟩, ⟨0b001011101, 9⟩, ⟨0b001001100, 9⟩, ⟨0b000111011, 9⟩, ⟨0b0001011101, 10⟩,
     ⟨0b0001001000, 10⟩, ⟨0b0000110110, 10⟩, ⟨0b00001001011, 11⟩, ⟨0b00000110010, 11⟩,
     ⟨0b00000011101, 11⟩] ++
    [⟨0b0110100, 7⟩, ⟨0b010110, 6⟩, ⟨0b0101010, 7⟩, ⟨0b0101000, 7⟩, ⟨0b01000011, 8⟩,
     ⟨0b00111001, 8⟩, ⟨0b001011111, 9⟩, ⟨0b001001111, 9⟩, ⟨0b001001000, 9⟩, ⟨0b000111001, 9⟩,
     ⟨0b0001011001, 10⟩, ⟨0b0001000101, 10⟩, ⟨0b0000110001, 10⟩, ⟨0b00001000010, 11⟩,
     ⟨0b00000101110, 11⟩, ⟨0b00000011011, 11⟩] ++
    [⟨0b01001101, 8⟩, ⟨0b0100101, 7⟩, ⟨0b0100011, 7⟩, ⟨0b01000010, 8⟩, ⟨0b00111010, 8⟩,
     ⟨0b00110100, 8⟩, ⟨0b001011011, 9⟩, ⟨0b001001010, 9⟩, ⟨0b000111110, 9⟩, ⟨0b000110000, 9⟩,
     ⟨0b0001001111, 10⟩, ⟨0b0000111111, 10⟩, ⟨0b00001011010, 11⟩, ⟨0b00000111110, 11⟩,
     ⟨0b00000101000, 11⟩, ⟨0b000000100110, 12⟩] ++
    [⟨0b001111101, 9⟩, ⟨0b0100000, 7⟩, ⟨0b00111100, 8⟩, ⟨0b00111000, 8⟩, ⟨0b00110010, 8⟩,
     ⟨0b001011100, 9⟩, ⟨0b001001110, 9⟩, ⟨0b001000001, 9⟩, ⟨0b000110111, 9⟩, ⟨0b0001010111, 10⟩,
     ⟨0b0001000111, 10⟩, ⟨0b0000110011, 10⟩, ⟨0b00001001001, 11⟩, ⟨0b00000110011, 11⟩,
     ⟨0b000001000110, 12⟩, ⟨0b000000011110, 12⟩] ++
    [⟨0b001101101, 9⟩, ⟨0b00110101, 8⟩, ⟨0b00110001, 8⟩, ⟨0b001011110, 9⟩, ⟨0b001011000, 9⟩,
     ⟨0b001001011, 9⟩, ⟨0b001000010, 9⟩, ⟨0b0001111010, 10⟩, ⟨0b0001011011, 10⟩,
     ⟨0b0001001001, 10⟩, ⟨0b0000111000, 10⟩, ⟨0b0000101010, 10⟩, ⟨0b00001000000, 11⟩,
     ⟨0b00000101100, 11⟩, ⟨0b00000010101, 11⟩, ⟨0b000000011001, 12⟩] ++
    [⟨0b001011010, 9⟩, ⟨0b00101011, 8⟩, ⟨0b00101001, 8⟩, ⟨0b001001101, 9⟩, ⟨0b001001001, 9⟩,
     ⟨0b000111111, 9⟩, ⟨0b000111000, 9⟩, ⟨0b0001011100, 10⟩, ⟨0b0001001101, 10⟩,
     ⟨0b0001000010, 10⟩, ⟨0b0000101111, 10⟩, ⟨0b00001000011, 11⟩, ⟨0b00000110000, 11⟩,
     ⟨0b000000110101, 12⟩, ⟨0b000000100100, 12⟩, ⟨0b000000010100, 12⟩] ++
    [⟨0b001000111, 9⟩, ⟨0b00100010, 8⟩, ⟨0b001000011, 9⟩, ⟨0b000111100, 9⟩, ⟨0b000111010, 9⟩,
     ⟨0b000110001, 9⟩, ⟨0b0001011000, 10⟩, ⟨0b0001001100, 10⟩, ⟨0b0001000011, 10⟩,
     ⟨0b00001101010, 11⟩, ⟨0b00001000111, 11⟩, ⟨0b00000110110, 11⟩, ⟨0b00000100110, 11⟩,
     ⟨0b000000100111, 12⟩, ⟨0b000000010111, 12⟩, ⟨0b000000001111, 12⟩] ++
    [⟨0b0001101101, 10⟩, ⟨0b000110101, 9⟩, ⟨0b000110011, 9⟩, ⟨0b000101111, 9⟩, ⟨0b0001011010, 10⟩,
     ⟨0b0001010010, 10⟩, ⟨0b0000111010, 10⟩, ⟨0b0000111001, 10⟩, ⟨0b0000110000, 10⟩,
     ⟨0b00001001000, 11⟩, ⟨0b00000111001, 11⟩, ⟨0b00000101001, 11⟩, ⟨0b00000010111, 11⟩,
     ⟨0b000000011011, 12⟩, ⟨0b0000000111110, 13⟩, ⟨0b000000001001, 12⟩] ++
    [⟨0b0001010110, 10⟩, ⟨0b000101010, 9⟩, ⟨0b000101000, 9⟩, ⟨0b000100101, 9⟩, ⟨0b0001000110, 10⟩,
     ⟨0b0001000000, 10⟩, ⟨0b0000110100, 10⟩, ⟨0b0000101011, 10⟩, ⟨0b00001000110, 11⟩,
     ⟨0b00000110111, 11⟩, ⟨0b00000101010, 11⟩, ⟨0b00000011001, 11⟩, ⟨0b000000011101, 12⟩,
     ⟨0b000000010010, 12⟩, ⟨0b000000001011, 12⟩, ⟨0b0000000001011, 13⟩] ++
    [⟨0b00001110110, 11⟩, ⟨0b0001000100, 10⟩, ⟨0b000011110, 9⟩, ⟨0b0000110111, 10⟩,
     ⟨0b0000110010, 10⟩, ⟨0b0000101110, 10⟩, ⟨0b00001001010, 11⟩, ⟨0b00001000001, 11⟩,
     ⟨0b00000110001, 11⟩, ⟨0b00000100111, 11⟩, ⟨0b00000011000, 11⟩, ⟨0b00000010000, 11⟩,
     ⟨0b000000010110, 12⟩, ⟨0b000000001101, 12⟩, ⟨0b0000000001110, 13⟩, ⟨0b0000000000111, 13⟩] ++
    [⟨0b00001011011, 11⟩, ⟨0b0000101100, 10⟩, ⟨0b0000100111, 10⟩, ⟨0b0000100110, 10⟩,
     ⟨0b0000100010, 10⟩, ⟨0b00000111111, 11⟩, ⟨0b00000110100, 11⟩, ⟨0b00000101101, 11⟩,
     ⟨0b00000011111, 11⟩, ⟨0b000000110100, 12⟩, ⟨0b000000011100, 12⟩, ⟨0b000000010011, 12⟩,
     ⟨0b000000001110, 12⟩, ⟨0b000000001000, 12⟩, ⟨0b0000000001001, 13⟩, ⟨0b0000000000011, 13⟩] ++
    [⟨0b000001111011, 12⟩, ⟨0b00000111100, 11⟩, ⟨0b00000111010, 11⟩, ⟨0b00000110101, 11⟩,
     ⟨0b00000101111, 11⟩, ⟨0b00000101011, 11⟩, ⟨0b00000100000, 11⟩, ⟨0b00000010110, 11⟩,
     ⟨0b000000100101, 12⟩, ⟨0b000000011000, 12⟩, ⟨0b000000010001, 12⟩, ⟨0b000000001100, 12⟩,
     ⟨0b0000000001111, 13⟩, ⟨0b0000000001010, 13⟩, ⟨0b000000000010, 12⟩, ⟨0b0000000000001, 13⟩] ++
    [⟨0b000001000111, 12⟩, ⟨0b00000100101, 11⟩, ⟨0b00000100010, 11⟩, ⟨0b00000011110, 11⟩,
     ⟨0b00000011100, 11⟩, ⟨0b00000010100, 11⟩, ⟨0b00000010001, 11⟩, ⟨0b000000011010, 12⟩,
     ⟨0b000000010101, 12⟩, ⟨0b000000010000, 12⟩, ⟨0b000000001010, 12⟩, ⟨0b000000000110, 12⟩,
     ⟨0b0000000001000, 13⟩, ⟨0b0000000000110, 13⟩, ⟨0b0000000000010, 13⟩, ⟨0b0000000000000, 13⟩]

/-- R275, tree 16 (table ids 16 … 23). -/
def tree16 : Tree where
  dim := 16
  entries :=
    [⟨0b1, 1⟩, ⟨0b0101, 4⟩, ⟨0b001110, 6⟩, ⟨0b00101100, 8⟩, ⟨0b001001010, 9⟩, ⟨0b000111111, 9⟩,
     ⟨0b0001101110, 10⟩, ⟨0b0001011101, 10⟩, ⟨0b00010101100, 11⟩, ⟨0b00010010101, 11⟩,
     ⟨0b00010001010, 11⟩, ⟨0b000011110010, 12⟩, ⟨0b000011100001, 12⟩, ⟨0b000011000011, 12⟩,
     ⟨0b0000101111000, 13⟩, ⟨0b000010001, 9⟩] ++
    [⟨0b011, 3⟩, ⟨0b0100, 4⟩, ⟨0b001100, 6⟩, ⟨0b0010100, 7⟩, ⟨0b00100011, 8⟩, ⟨0b000111110, 9⟩,
     ⟨0b000110101, 9⟩, ⟨0b000101111, 9⟩, ⟨0b0001010011, 10⟩, ⟨0b0001001011, 10⟩,
     ⟨0b0001000100, 10⟩, ⟨0b00001110111, 11⟩, ⟨0b000011001001, 12⟩, ⟨0b00001101011, 11⟩,
     ⟨0b000011001111, 12⟩, ⟨0b00001001, 8⟩] ++
    [⟨0b001111, 6⟩, ⟨0b001101, 6⟩, ⟨0b0010111, 7⟩, ⟨0b00100110, 8⟩, ⟨0b001000011, 9⟩,
     ⟨0b000111010, 9⟩, ⟨0b0001100111, 10⟩, ⟨0b0001011010, 10⟩, ⟨0b00010100001, 11⟩,
     ⟨0b0001001000, 10⟩, ⟨0b00001111111, 11⟩, ⟨0b00001110101, 11⟩, ⟨0b00001101110, 11⟩,
     ⟨0b000011010001, 12⟩, ⟨0b000011001110, 12⟩, ⟨0b000010000, 9⟩] ++
    [⟨0b00101101, 8⟩, ⟨0b0010101, 7⟩, ⟨0b00100111, 8⟩, ⟨0b001000101, 9⟩, ⟨0b001000000, 9⟩,
     ⟨0b0001110010, 10⟩, ⟨0b0001100011, 10⟩, ⟨0b0001010111, 10⟩, ⟨0b00010011110, 11⟩,
     ⟨0b00010001100, 11⟩, ⟨0b000011111100, 12⟩, ⟨0b000011010100, 12⟩, ⟨0b000011000111, 12⟩,
     ⟨0b0000110000011, 13⟩, ⟨0b0000101101101, 13⟩, ⟨0b0000011010, 10⟩] ++
    [⟨0b001001011, 9⟩, ⟨0b00100100, 8⟩, ⟨0b001000100, 9⟩, ⟨0b001000001, 9⟩, ⟨0b0001110011, 10⟩,
     ⟨0b0001100101, 10⟩, ⟨0b00010110011, 11⟩, ⟨0b00010100100, 11⟩, ⟨0b00010011011, 11⟩,
     ⟨0b000100001000, 12⟩, ⟨0b000011110110, 12⟩, ⟨0b000011100010, 12⟩, ⟨0b0000110001011, 13⟩,
     ⟨0b0000101111110, 13⟩, ⟨0b0000101101010, 13⟩, ⟨0b000001001, 9⟩] ++
    [⟨0b001000010, 9⟩, ⟨0b00011110, 8⟩, ⟨0b000111011, 9⟩, ⟨0b000111000, 9⟩, ⟨0b0001100110, 10⟩,
     ⟨0b00010111001, 11⟩, ⟨0b00010101101, 11⟩, ⟨0b000100001001, 12⟩, ⟨0b00010001110, 11⟩,
     ⟨0b000011111101, 12⟩, ⟨0b000011101000, 12⟩, ⟨0b0000110010000, 13⟩, ⟨0b0000110000100, 13⟩,
     ⟨0b0000101111010, 13⟩, ⟨0b00000110111101, 14⟩, ⟨0b0000010000, 10⟩] ++
    [⟨0b0001101111, 10⟩, ⟨0b000110110, 9⟩, ⟨0b000110100, 9⟩, ⟨0b0001100100, 10⟩,
     ⟨0b00010111000, 11⟩, ⟨0b00010110010, 11⟩, ⟨0b00010100000, 11⟩, ⟨0b00010000101, 11⟩,
     ⟨0b000100000001, 12⟩, ⟨0b000011110100, 12⟩, ⟨0b000011100100, 12⟩, ⟨0b000011011001, 12⟩,
     ⟨0b0000110000001, 13⟩, ⟨0b0000101101110, 13⟩, ⟨0b00001011001011, 14⟩, ⟨0b0000001010, 10⟩] ++
    [⟨0b0001100010, 10⟩, ⟨0b000110000, 9⟩, ⟨0b0001011011, 10⟩, ⟨0b0001011000, 10⟩,
     ⟨0b00010100101, 11⟩, ⟨0b00010011101, 11⟩, ⟨0b00010010100, 11⟩, ⟨0b000100000101, 12⟩,
     ⟨0b000011111000, 12⟩, ⟨0b0000110010111, 13⟩, ⟨0b0000110001101, 13⟩, ⟨0b0000101110100, 13⟩,
     ⟨0b0000101111100, 13⟩, ⟨0b000001101111001, 15⟩, ⟨0b000001101110100, 15⟩, ⟨0b0000001000, 10⟩] ++
    [⟨0b0001010101, 10⟩, ⟨0b0001010100, 10⟩, ⟨0b0001010001, 10⟩, ⟨0b00010011111, 11⟩,
     ⟨0b00010011100, 11⟩, ⟨0b00010001111, 11⟩, ⟨0b000100000100, 12⟩, ⟨0b000011111001, 12⟩,
     ⟨0b0000110101011, 13⟩, ⟨0b0000110010001, 13⟩, ⟨0b0000110001000, 13⟩, ⟨0b0000101111111, 13⟩,
     ⟨0b00001011010111, 14⟩, ⟨0b00001011001001, 14⟩, ⟨0b00001011000100, 14⟩, ⟨0b0000000111, 10⟩] ++
    [⟨0b00010011010, 11⟩, ⟨0b0001001100, 10⟩, ⟨0b0001001001, 10⟩, ⟨0b00010001101, 11⟩,
     ⟨0b00010000011, 11⟩, ⟨0b000100000000, 12⟩, ⟨0b000011110101, 12⟩, ⟨0b0000110101010, 13⟩,
     ⟨0b0000110010110, 13⟩, ⟨0b0000110001010, 13⟩, ⟨0b0000110000000, 13⟩, ⟨0b00001011011111, 14⟩,
     ⟨0b0000101100111, 13⟩, ⟨0b00001011000110, 14⟩, ⟨0b0000101100000, 13⟩, ⟨0b00000001011, 11⟩] ++
    [⟨0b00010001011, 11⟩, ⟨0b00010000001, 11⟩, ⟨0b0001000011, 10⟩, ⟨0b00001111101, 11⟩,
     ⟨0b000011110111, 12⟩, ⟨0b000011101001, 12⟩, ⟨0b000011100101, 12⟩, ⟨0b000011011011, 12⟩,
     ⟨0b0000110001001, 13⟩, ⟨0b00001011100111, 14⟩, ⟨0b00001011100001, 14⟩, ⟨0b00001011010000, 14⟩,
     ⟨0b000001101110101, 15⟩, ⟨0b000001101110010, 15⟩, ⟨0b00000110110111, 14⟩, ⟨0b0000000100, 10⟩] ++
    [⟨0b000011110011, 12⟩, ⟨0b00001111000, 11⟩, ⟨0b00001110110, 11⟩, ⟨0b00001110011, 11⟩,
     ⟨0b000011100011, 12⟩, ⟨0b000011011111, 12⟩, ⟨0b0000110001100, 13⟩, ⟨0b00001011101010, 14⟩,
     ⟨0b00001011100110, 14⟩, ⟨0b00001011100000, 14⟩, ⟨0b00001011010001, 14⟩,
     ⟨0b00001011001000, 14⟩, ⟨0b00001011000010, 14⟩, ⟨0b0000011011111, 13⟩, ⟨0b00000110110100, 14⟩,
     ⟨0b00000000110, 11⟩] ++
    [⟨0b000011001010, 12⟩, ⟨0b000011100000, 12⟩, ⟨0b000011011110, 12⟩, ⟨0b000011011010, 12⟩,
     ⟨0b000011011000, 12⟩, ⟨0b0000110000101, 13⟩, ⟨0b0000110000010, 13⟩, ⟨0b0000101111101, 13⟩,
     ⟨0b0000101101100, 13⟩, ⟨0b000001101111000, 15⟩, ⟨0b00000110111011, 14⟩,
     ⟨0b00001011000011, 14⟩, ⟨0b00000110111000, 14⟩, ⟨0b00000110110101, 14⟩,
     ⟨0b0000011011000000, 16⟩, ⟨0b00000000100, 11⟩] ++
    [⟨0b00001011101011, 14⟩, ⟨0b000011010011, 12⟩, ⟨0b000011010010, 12⟩, ⟨0b000011010000, 12⟩,
     ⟨0b0000101110010, 13⟩, ⟨0b0000101111011, 13⟩, ⟨0b00001011011110, 14⟩, ⟨0b00001011010011, 14⟩,
     ⟨0b00001011001010, 14⟩, ⟨0b0000011011000111, 16⟩, ⟨0b000001101110011, 15⟩,
     ⟨0b000001101101101, 15⟩, ⟨0b000001101101100, 15⟩, ⟨0b00000110110000011, 17⟩,
     ⟨0b000001101100001, 15⟩, ⟨0b00000000010, 11⟩] ++
    [⟨0b0000101111001, 13⟩, ⟨0b0000101110001, 13⟩, ⟨0b00001100110, 11⟩, ⟨0b000010111011, 12⟩,
     ⟨0b00001011010110, 14⟩, ⟨0b00001011010010, 14⟩, ⟨0b0000101100110, 13⟩, ⟨0b00001011000111, 14⟩,
     ⟨0b00001011000101, 14⟩, ⟨0b000001101100010, 15⟩, ⟨0b0000011011000110, 16⟩,
     ⟨0b000001101100111, 15⟩, ⟨0b00000110110000010, 17⟩, ⟨0b000001101100110, 15⟩,
     ⟨0b00000110110010, 14⟩, ⟨0b00000000000, 11⟩] ++
    [⟨0b000001100, 9⟩, ⟨0b00001010, 8⟩, ⟨0b00000111, 8⟩, ⟨0b000001011, 9⟩, ⟨0b000001010, 9⟩,
     ⟨0b0000010001, 10⟩, ⟨0b0000001011, 10⟩, ⟨0b0000001001, 10⟩, ⟨0b00000001101, 11⟩,
     ⟨0b00000001100, 11⟩, ⟨0b00000001010, 11⟩, ⟨0b00000000111, 11⟩, ⟨0b00000000101, 11⟩,
     ⟨0b00000000011, 11⟩, ⟨0b00000000001, 11⟩, ⟨0b00000011, 8⟩]

/-- R276, tree 24 (table ids 24 … 31). -/
def tree24 : Tree where
  dim := 16
  entries :=
    [⟨0b1111, 4⟩, ⟨0b1101, 4⟩, ⟨0b101110, 6⟩, ⟨0b1010000, 7⟩, ⟨0b10010010, 8⟩, ⟨0b100000110, 9⟩,
     ⟨0b011111000, 9⟩, ⟨0b0110110010, 10⟩, ⟨0b0110101010, 10⟩, ⟨0b01010011101, 11⟩,
     ⟨0b01010001101, 11⟩, ⟨0b01010001001, 11⟩, ⟨0b01001101101, 11⟩, ⟨0b01000000101, 11⟩,
     ⟨0b010000001000, 12⟩, ⟨0b001011000, 9⟩] ++
    [⟨0b1110, 4⟩, ⟨0b1100, 4⟩, ⟨0b10101, 5⟩, ⟨0b100110, 6⟩, ⟨0b1000111, 7⟩, ⟨0b10000010, 8⟩,
     ⟨0b01111010, 8⟩, ⟨0b011011000, 9⟩, ⟨0b011010001, 9⟩, ⟨0b011000110, 9⟩, ⟨0b0101000111, 10⟩,
     ⟨0b0101011001, 10⟩, ⟨0b0100111111, 10⟩, ⟨0b0100101001, 10⟩, ⟨0b0100010111, 10⟩,
     ⟨0b00101010, 8⟩] ++
    [⟨0b101111, 6⟩, ⟨0b10110, 5⟩, ⟨0b101001, 6⟩, ⟨0b1001010, 7⟩, ⟨0b1000100, 7⟩, ⟨0b10000000, 8⟩,
     ⟨0b01111000, 8⟩, ⟨0b011011101, 9⟩, ⟨0b011001111, 9⟩, ⟨0b011000010, 9⟩, ⟨0b010110110, 9⟩,
     ⟨0b0101010100, 10⟩, ⟨0b0100111011, 10⟩, ⟨0b0100100111, 10⟩, ⟨0b01000011101, 11⟩,
     ⟨0b0010010, 7⟩] ++
    [⟨0b1010001, 7⟩, ⟨0b100111, 6⟩, ⟨0b1001011, 7⟩, ⟨0b1000110, 7⟩, ⟨0b10000110, 8⟩,
     ⟨0b01111101, 8⟩, ⟨0b01110100, 8⟩, ⟨0b011011100, 9⟩, ⟨0b011001100, 9⟩, ⟨0b010111110, 9⟩,
     ⟨0b010110010, 9⟩, ⟨0b0101000101, 10⟩, ⟨0b0100110111, 10⟩, ⟨0b0100100101, 10⟩,
     ⟨0b0100001111, 10⟩, ⟨0b0010000, 7⟩] ++
    [⟨0b10010011, 8⟩, ⟨0b1001000, 7⟩, ⟨0b1000101, 7⟩, ⟨0b10000111, 8⟩, ⟨0b01111111, 8⟩,
     ⟨0b01110110, 8⟩, ⟨0b01110000, 8⟩, ⟨0b011010010, 9⟩, ⟨0b011001000, 9⟩, ⟨0b010111100, 9⟩,
     ⟨0b0101100000, 10⟩, ⟨0b0101000011, 10⟩, ⟨0b0100110010, 10⟩, ⟨0b0100011101, 10⟩,
     ⟨0b01000011100, 11⟩, ⟨0b0001110, 7⟩] ++
    [⟨0b100000111, 9⟩, ⟨0b1000010, 7⟩, ⟨0b10000001, 8⟩, ⟨0b01111110, 8⟩, ⟨0b01110111, 8⟩,
     ⟨0b01110010, 8⟩, ⟨0b011010110, 9⟩, ⟨0b011001010, 9⟩, ⟨0b011000000, 9⟩, ⟨0b010110100, 9⟩,
     ⟨0b0101010101, 10⟩, ⟨0b0100111101, 10⟩, ⟨0b0100101101, 10⟩, ⟨0b0100011001, 10⟩,
     ⟨0b0100000110, 10⟩, ⟨0b0001100, 7⟩] ++
    [⟨0b011111001, 9⟩, ⟨0b01111011, 8⟩, ⟨0b01111001, 8⟩, ⟨0b01110101, 8⟩, ⟨0b01110001, 8⟩,
     ⟨0b011010111, 9⟩, ⟨0b011001110, 9⟩, ⟨0b011000011, 9⟩, ⟨0b010111001, 9⟩, ⟨0b0101011011, 10⟩,
     ⟨0b0101001010, 10⟩, ⟨0b0100110100, 10⟩, ⟨0b0100100011, 10⟩, ⟨0b0100010000, 10⟩,
     ⟨0b01000001000, 11⟩, ⟨0b0001010, 7⟩] ++
    [⟨0b0110110011, 10⟩, ⟨0b01110011, 8⟩, ⟨0b01101111, 8⟩, ⟨0b01101101, 8⟩, ⟨0b011010011, 9⟩,
     ⟨0b011001011, 9⟩, ⟨0b011000100, 9⟩, ⟨0b010111011, 9⟩, ⟨0b0101100001, 10⟩, ⟨0b0101001100, 10⟩,
     ⟨0b0100111001, 10⟩, ⟨0b0100101010, 10⟩, ⟨0b0100011011, 10⟩, ⟨0b01000010011, 11⟩,
     ⟨0b00101111101, 11⟩, ⟨0b00010001, 8⟩] ++
    [⟨0b0110101011, 10⟩, ⟨0b011010100, 9⟩, ⟨0b011010000, 9⟩, ⟨0b011001101, 9⟩, ⟨0b011001001, 9⟩,
     ⟨0b011000001, 9⟩, ⟨0b010111010, 9⟩, ⟨0b010110001, 9⟩, ⟨0b010101001, 9⟩, ⟨0b0101000000, 10⟩,
     ⟨0b0100101111, 10⟩, ⟨0b0100011110, 10⟩, ⟨0b0100001100, 10⟩, ⟨0b01000000010, 11⟩,
     ⟨0b00101111001, 11⟩, ⟨0b00010000, 8⟩] ++
    [⟨0b0101001111, 10⟩, ⟨0b011000111, 9⟩, ⟨0b011000101, 9⟩, ⟨0b010111111, 9⟩, ⟨0b010111101, 9⟩,
     ⟨0b010110101, 9⟩, ⟨0b010101110, 9⟩, ⟨0b0101001101, 10⟩, ⟨0b0101000001, 10⟩,
     ⟨0b0100110001, 10⟩, ⟨0b0100100001, 10⟩, ⟨0b0100010011, 10⟩, ⟨0b01000001001, 11⟩,
     ⟨0b00101111011, 11⟩, ⟨0b00101110011, 11⟩, ⟨0b00001011, 8⟩] ++
    [⟨0b01010011100, 11⟩, ⟨0b010111000, 9⟩, ⟨0b010110111, 9⟩, ⟨0b010110011, 9⟩, ⟨0b010101111, 9⟩,
     ⟨0b0101011000, 10⟩, ⟨0b0101001011, 10⟩, ⟨0b0100111010, 10⟩, ⟨0b0100110000, 10⟩,
     ⟨0b0100100010, 10⟩, ⟨0b0100010101, 10⟩, ⟨0b01000010010, 11⟩, ⟨0b00101111111, 11⟩,
     ⟨0b00101110101, 11⟩, ⟨0b00101101110, 11⟩, ⟨0b00001010, 8⟩] ++
    [⟨0b01010001100, 11⟩, ⟨0b0101011010, 10⟩, ⟨0b010101011, 9⟩, ⟨0b010101000, 9⟩, ⟨0b010100100, 9⟩,
     ⟨0b0100111110, 10⟩, ⟨0b0100110101, 10⟩, ⟨0b0100101011, 10⟩, ⟨0b0100011111, 10⟩,
     ⟨0b0100010100, 10⟩, ⟨0b0100000111, 10⟩, ⟨0b01000000001, 11⟩, ⟨0b00101110111, 11⟩,
     ⟨0b00101110000, 11⟩, ⟨0b00101101010, 11⟩, ⟨0b00000110, 8⟩] ++
    [⟨0b01010001000, 11⟩, ⟨0b0101000010, 10⟩, ⟨0b0100111100, 10⟩, ⟨0b0100111000, 10⟩,
     ⟨0b0100110011, 10⟩, ⟨0b0100101110, 10⟩, ⟨0b0100100100, 10⟩, ⟨0b0100011100, 10⟩,
     ⟨0b0100001101, 10⟩, ⟨0b0100000101, 10⟩, ⟨0b01000000000, 11⟩, ⟨0b00101111000, 11⟩,
     ⟨0b00101110010, 11⟩, ⟨0b00101101100, 11⟩, ⟨0b00101100111, 11⟩, ⟨0b00000100, 8⟩] ++
    [⟨0b01001101100, 11⟩, ⟨0b0100101100, 10⟩, ⟨0b0100101000, 10⟩, ⟨0b0100100110, 10⟩,
     ⟨0b0100100000, 10⟩, ⟨0b0100011010, 10⟩, ⟨0b0100010001, 10⟩, ⟨0b0100001010, 10⟩,
     ⟨0b01000000011, 11⟩, ⟨0b00101111100, 11⟩, ⟨0b00101110110, 11⟩, ⟨0b00101110001, 11⟩,
     ⟨0b00101101101, 11⟩, ⟨0b00101101001, 11⟩, ⟨0b00101100101, 11⟩, ⟨0b00000010, 8⟩] ++
    [⟨0b010000001001, 12⟩, ⟨0b0100011000, 10⟩, ⟨0b0100010110, 10⟩, ⟨0b0100010010, 10⟩,
     ⟨0b0100001011, 10⟩, ⟨0b0100001000, 10⟩, ⟨0b0100000011, 10⟩, ⟨0b00101111110, 11⟩,
     ⟨0b00101111010, 11⟩, ⟨0b00101110100, 11⟩, ⟨0b00101101111, 11⟩, ⟨0b00101101011, 11⟩,
     ⟨0b00101101000, 11⟩, ⟨0b00101100110, 11⟩, ⟨0b00101100100, 11⟩, ⟨0b00000000, 8⟩] ++
    [⟨0b00101011, 8⟩, ⟨0b0010100, 7⟩, ⟨0b0010011, 7⟩, ⟨0b0010001, 7⟩, ⟨0b0001111, 7⟩,
     ⟨0b0001101, 7⟩, ⟨0b0001011, 7⟩, ⟨0b0001001, 7⟩, ⟨0b0000111, 7⟩, ⟨0b0000110, 7⟩,
     ⟨0b0000100, 7⟩, ⟨0b00000111, 8⟩, ⟨0b00000101, 8⟩, ⟨0b00000011, 8⟩, ⟨0b00000001, 8⟩,
     ⟨0b0011, 4⟩]

/-- R277: `QTAB_A`, entry `q = 8v + 4w + 2x + y`. -/
def quadTableA : List CodeWord :=
  [⟨0b1, 1⟩, ⟨0b0101, 4⟩, ⟨0b0100, 4⟩, ⟨0b00101, 5⟩,
   ⟨0b0110, 4⟩, ⟨0b000101, 6⟩, ⟨0b00100, 5⟩, ⟨0b000100, 6⟩,
   ⟨0b0111, 4⟩, ⟨0b00011, 5⟩, ⟨0b00110, 5⟩, ⟨0b000000, 6⟩,
   ⟨0b00111, 5⟩, ⟨0b000010, 6⟩, ⟨0b000011, 6⟩, ⟨0b000001, 6⟩]

/-- R183: `BITRATE_TAB`, kbit/s, indices 1 to 14. -/
def defaultBitrateTab : BitrateTab where
  v1l1 := [32, 64, 96, 128, 160, 192, 224, 256, 288, 320, 352, 384, 416, 448]
  v1l2 := [32, 48, 56, 64, 80, 96, 112, 128, 160, 192, 224, 256, 320, 384]
  v1l3 := [32, 40, 48, 56, 64, 80, 96, 112, 128, 160, 192, 224, 256, 320]
  v2l1 := [32, 48, 56, 64, 80, 96, 112, 128, 144, 160, 176, 192, 224, 256]
  v2l2 := [8, 16, 24, 32, 40, 48, 56, 64, 80, 96, 112, 128, 144, 160]
  v2l3 := [8, 16, 24, 32, 40, 48, 56, 64, 80, 96, 112, 128, 144, 160]

/-- R183: `SRATE_TAB`, Hz. -/
def defaultSrateTab : SrateTab where
  mpeg1 := [44100, 48000, 32000]
  mpeg2 := [22050, 24000, 16000]
  mpeg25 := [11025, 12000, 8000]

/-- R183: `SPF_TAB`, layers I, II, III. -/
def defaultSpfTab : SpfTab where
  mpeg1 := [384, 1152, 1152]
  mpeg2 := [384, 1152, 576]
  mpeg25 := [384, 1152, 576]

/-- R205: `SLEN_TAB`, the pair (slen1, slen2) of each `scalefac_compress`. -/
def defaultSlenTab : List (Nat × Nat) :=
  [(0, 0), (0, 1), (0, 2), (0, 3), (3, 0), (1, 1), (1, 2), (1, 3),
   (2, 1), (2, 2), (2, 3), (3, 1), (3, 2), (3, 3), (4, 2), (4, 3)]

/-- R241: `SFB_LONG_TAB`, the 23 band starts of each sampling-rate index. -/
def defaultSfbLongTab : List (List Nat) :=
  [[0, 4, 8, 12, 16, 20, 24, 30, 36, 44, 52, 62, 74, 90, 110, 134, 162, 196, 238, 288, 342, 418, 576],
   [0, 4, 8, 12, 16, 20, 24, 30, 36, 42, 50, 60, 72, 88, 106, 128, 156, 190, 230, 276, 330, 384, 576],
   [0, 4, 8, 12, 16, 20, 24, 30, 36, 44, 54, 66, 82, 102, 126, 156, 194, 240, 296, 364, 448, 550, 576]]

/-- R234: `LINBITS_TAB`, table ids 0 to 31. -/
def defaultLinbitsTab : List Nat :=
  [0, 0, 0, 0, 0, 0, 0, 0, 0, 0, 0, 0, 0, 0, 0, 0] ++
  [1, 2, 3, 4, 6, 8, 10, 13, 4, 5, 6, 7, 8, 9, 11, 13]

/-- `HTAB` by tree id (R231). -/
def defaultHtab : List (Nat × Tree) :=
  [(1, tree1), (2, tree2), (3, tree3), (5, tree5), (6, tree6), (7, tree7), (8, tree8), (9, tree9),
   (10, tree10), (11, tree11), (12, tree12), (13, tree13), (15, tree15), (16, tree16), (24, tree24)]

/-- The configuration the spec offers as default (00_scope.md R7; 92_eei_decisions.md, OPEN parameters):
the tables above, the default `region_of`, unbounded capacities. -/
def Config.default : Config where
  htab := defaultHtab
  qtabA := quadTableA
  linbitsTab := defaultLinbitsTab
  bitrateTab := defaultBitrateTab
  srateTab := defaultSrateTab
  spfTab := defaultSpfTab
  slenTab := defaultSlenTab
  sfbLongTab := defaultSfbLongTab
  regionMap := []
  ibufCap := none
  plainCap := none
  codeCap := none
  obufCap := none

/-- R233: the tree of a table id: its own for 1 to 15, 16 for 16 to 23, 24 for 24 to 31. -/
def treeOf (t : Nat) : Nat :=
  if t < 16 then t else if t < 24 then 16 else 24

/-- The first value listed under a key. -/
def lookupKey {α : Type} (k : Nat) : List (Nat × α) → Option α
  | [] => none
  | (a, v) :: rest => if k = a then some v else lookupKey k rest

/-- The tree a pair decode with table id `t` searches; ids 0, 4 and 14 have none (R233). -/
def Config.pairTree (c : Config) (t : Nat) : Option Tree :=
  if t = 0 ∨ t = 4 ∨ t = 14 then none else lookupKey (treeOf t) c.htab

/-- R234: `LINBITS_TAB[t]`. -/
def Config.linbits (c : Config) (t : Nat) : Nat := c.linbitsTab.getD t 0

/-- The bitrate row of a version code and layer; `vclass(3) = 1`, `vclass(2) = vclass(0) = 2` (R182). -/
def Config.bitrateRow (c : Config) (ver layer : Nat) : List Nat :=
  match decide (ver = 3), layer with
  | true, 1 => c.bitrateTab.v1l1
  | true, 2 => c.bitrateTab.v1l2
  | true, _ => c.bitrateTab.v1l3
  | false, 1 => c.bitrateTab.v2l1
  | false, 2 => c.bitrateTab.v2l2
  | false, _ => c.bitrateTab.v2l3

/-- R183: `BITRATE_TAB[vclass(ver)][layer][bri]`, kbit/s; the rows begin at index 1. -/
def Config.bitrate (c : Config) (ver layer bri : Nat) : Nat :=
  (c.bitrateRow ver layer).getD (bri - 1) 0

/-- R183: `SRATE_TAB[ver][sri]`. -/
def Config.srate (c : Config) (ver sri : Nat) : Nat :=
  let row := if ver = 3 then c.srateTab.mpeg1 else if ver = 2 then c.srateTab.mpeg2 else c.srateTab.mpeg25
  row.getD sri 0

/-- R183: `SPF_TAB[ver][layer]`. -/
def Config.spf (c : Config) (ver layer : Nat) : Nat :=
  let row := if ver = 3 then c.spfTab.mpeg1 else if ver = 2 then c.spfTab.mpeg2 else c.spfTab.mpeg25
  row.getD (layer - 1) 0

/-- R205: `SLEN_TAB[sfcomp] = (slen1, slen2)`. -/
def Config.slen (c : Config) (sfcomp : Nat) : Nat × Nat := c.slenTab.getD sfcomp (0, 0)

/-- R241: `SFB_LONG_TAB[sri][i]`. -/
def Config.sfbLong (c : Config) (sri i : Nat) : Nat := (c.sfbLongTab.getD sri []).getD i 0

/-- R283: the default `region_of(k)` for `CFG_NREG = n`. -/
def defaultRegionOf (n k : Nat) : Nat := k / 2 % 576 * n / 576

/-- R283: `region_of(k)` for `CFG_NREG = n`: the entry of `regionMap` where it has one, kept below `n`,
else the default. -/
def Config.regionOf (c : Config) (n k : Nat) : Nat :=
  match (c.regionMap.getD n [])[k]? with
  | some r => min r (n - 1)
  | none => defaultRegionOf n k

end Sys2Proof
end

