-- ==== Sys2Proof/Machine/State.lean ====
section
/-! DEFINITION. The state of MSC-HAP, all of it (10_state.md, 20_memory.md), as plain data, the reasons a
step can stop, and the state after reset (70_reset_and_hazards.md R390). -/

namespace Sys2Proof.Machine

/-- Why the machine stops. None of these is a condition of the spec: those are recorded and the machine
goes on (60_exceptions.md R350). -/
inductive Fault where
  /-- Raised by `RUN` when it has done as many frames as `IBUF` has bytes and is not at its end: under the
  host precondition `IN_LEN ≤ 2^28 - 2^12` (R31) and sane header tables no state reaches it (R328 says
  `RUN` ends). Safe: the model stops where the rule's loop might go on. -/
  | runLoopBound
  /-- Raised by `ACDEC` when it has decoded more symbols than the interval's width and `CODE` allow: with
  `CODE_LEN` below `2^28 - 2^12` no state reaches it (R289 says `ACDEC` ends). Safe. -/
  | acdecLoopBound
deriving DecidableEq, Repr

/-- Why a step is not taken. Both are safe: nothing is claimed of what the hardware does there. -/
inductive Refusal where
  /-- Raised by the dispatcher for a command that has no meaning in the model. -/
  | notModelled (mnemonic : String)
  /-- Raised by a `BufLoad` of more bytes than the buffer's capacity: "the host must not do it; a model
  makes it a precondition of `BufLoad`" (20_memory.md R97). -/
  | bufLoadOverCapacity
deriving DecidableEq, Repr

/-- `STATUS.AC_MODE`: 0 idle, 1 encoding, 2 decoding; "3 never occurs" (10_state.md R24). -/
inductive AcMode where
  | idle
  | encoding
  | decoding
deriving DecidableEq, Repr

/-- The frame-header registers 0x20 to 0x2D (10_state.md R37). -/
structure Header where
  hRaw : BitVec 32
  version : BitVec 2
  layer : BitVec 2
  crcPresent : BitVec 1
  brIdx : BitVec 4
  srIdx : BitVec 2
  bitrate : BitVec 19
  srate : BitVec 16
  padding : BitVec 1
  chmode : BitVec 2
  channels : BitVec 2
  modeExt : BitVec 2
  emphasis : BitVec 2
  frameSize : BitVec 12
deriving DecidableEq, Repr

/-- The registers of one granule and channel (10_state.md R40). -/
structure SideBlock where
  p23len : BitVec 12
  bigv : BitVec 9
  ggain : BitVec 8
  sfcomp : BitVec 4
  wsw : BitVec 1
  btype : BitVec 2
  mixed : BitVec 1
  tsel0 : BitVec 5
  tsel1 : BitVec 5
  tsel2 : BitVec 5
  sbgain0 : BitVec 3
  sbgain1 : BitVec 3
  sbgain2 : BitVec 3
  r0cnt : BitVec 4
  r1cnt : BitVec 3
  preflag : BitVec 1
  sfscale : BitVec 1
  c1sel : BitVec 1
  nzc : BitVec 10
deriving DecidableEq, Repr

/-- The four blocks `SI[gr][ch]` (10_state.md R40). -/
structure SideBlocks where
  g0c0 : SideBlock
  g0c1 : SideBlock
  g1c0 : SideBlock
  g1c1 : SideBlock
deriving DecidableEq, Repr

/-- The arithmetic coder's registers and model memory (10_state.md R44, R45). `cnt` holds `CNT[r][c][y]`
at address `cntAddr r c y` (Machine/Operands.lean). -/
structure Coder where
  low : BitVec 32
  high : BitVec 32
  xval : BitVec 32
  ctx : BitVec 10
  pos : BitVec 28
  cpos : BitVec 28
  cnt : Memory 16
deriving DecidableEq, Repr

/-- What the host does between commands (10_state.md R21, 20_memory.md R81). A write of register 0x00
issues a command (R23). `BufLoad` names one of the three buffers that have it. -/
inductive HostOp where
  | regWrite (n : Nat) (v : Word)
  | regRead (n : Nat)
  | loadIbuf (bytes : List Byte)
  | loadPlain (bytes : List Byte)
  | loadCode (bytes : List Byte)
  | bufRead (b : BufId) (a n : Nat)
  | sampRead (gr ch i : Nat)
  | scfLRead (gr ch sfb : Nat)
  | scfSRead (gr ch win sfb : Nat)
  | cntRead (r c y : Nat)
deriving DecidableEq, Repr

/-- Everything the spec gives the machine; INVENTORY.md lists each field with its rule. `host` and
`readout` are the model's own: the host's pending actions, oldest first, and what its last read returned
(assumption log 1, 16). -/
structure State where
  done : Bool
  hValid : Bool
  siValid : Bool
  mdValid : Bool
  acMode : AcMode
  err : BitVec 13
  lastErr : BitVec 4
  errInfo : BitVec 32
  cfgModel : BitVec 1
  cfgNreg : BitVec 6
  startOff : BitVec 28
  foff : BitVec 28
  cur : BitVec 32
  res : BitVec 32
  idx : BitVec 10
  p2start : BitVec 32
  frames : BitVec 32
  skipped : BitVec 32
  hdr : Header
  ring : List (BitVec 12)
  mdb : BitVec 9
  siPrivate : BitVec 5
  scfsi : BitVec 8
  si : SideBlocks
  scfL : Memory 4
  scfS : Memory 4
  samp : Memory 16
  ac : Coder
  ibuf : Buffer
  mdbuf : Buffer
  plain : Buffer
  code : Buffer
  obuf : Buffer
  cfg : Config
  host : List HostOp
  readout : List Word
deriving DecidableEq, Repr

/-- Header registers after reset: all 0 (R37, R390). -/
def Header.reset : Header where
  hRaw := 0
  version := 0
  layer := 0
  crcPresent := 0
  brIdx := 0
  srIdx := 0
  bitrate := 0
  srate := 0
  padding := 0
  chmode := 0
  channels := 0
  modeExt := 0
  emphasis := 0
  frameSize := 0

/-- A side-information block with every register 0 (R40, R390). -/
def SideBlock.reset : SideBlock where
  p23len := 0
  bigv := 0
  ggain := 0
  sfcomp := 0
  wsw := 0
  btype := 0
  mixed := 0
  tsel0 := 0
  tsel1 := 0
  tsel2 := 0
  sbgain0 := 0
  sbgain1 := 0
  sbgain2 := 0
  r0cnt := 0
  r1cnt := 0
  preflag := 0
  sfscale := 0
  c1sel := 0
  nzc := 0

/-- The four blocks after reset (R390). -/
def SideBlocks.reset : SideBlocks :=
  ⟨SideBlock.reset, SideBlock.reset, SideBlock.reset, SideBlock.reset⟩

/-- The coder after reset: `LOW = 0`, `HIGH = 0xFFFFFFFF`, `CTX = 1`, all else 0 (R44, R45, R390). -/
def Coder.reset : Coder where
  low := 0
  high := 0xFFFFFFFF#32
  xval := 0
  ctx := 1
  pos := 0
  cpos := 0
  cnt := []

/-- The machine right after power-on reset (70_reset_and_hazards.md R390; 10_state.md R60). The tables
hold their fixed contents, the spec's defaults. -/
def State.reset : State where
  done := false
  hValid := false
  siValid := false
  mdValid := false
  acMode := .idle
  err := 0
  lastErr := 0
  errInfo := 0
  cfgModel := 1
  cfgNreg := 20
  startOff := 0
  foff := 0
  cur := 0
  res := 0
  idx := 0
  p2start := 0
  frames := 0
  skipped := 0
  hdr := Header.reset
  ring := []
  mdb := 0
  siPrivate := 0
  scfsi := 0
  si := SideBlocks.reset
  scfL := []
  scfS := []
  samp := []
  ac := Coder.reset
  ibuf := Buffer.empty
  mdbuf := Buffer.empty
  plain := Buffer.empty
  code := Buffer.empty
  obuf := Buffer.empty
  cfg := Config.default
  host := []
  readout := []

end Sys2Proof.Machine
end

