-- ==== Sys2Proof/Machine/Flags.lean ====
section
/-! DEFINITION. The flags: the condition codes of `ERR` and `LASTERR` (60_exceptions.md R352) and the
word of `STATUS` (10_state.md R24). The block has no arithmetic flags (R25). -/

namespace Sys2Proof.Machine

/-- The twelve error conditions (60_exceptions.md R352). -/
inductive Cond where
  | invalidFrame
  | truncatedInput
  | huffmanDecodeFailure
  | reservoirInconsistency
  | emptyInput
  | noFrames
  | unsupportedFrame
  | illegalCommand
  | sequenceError
  | payloadOverflow
  | acInputExhausted
  | capacityFault
deriving DecidableEq, Repr

/-- The code of a condition (R352). -/
def Cond.code : Cond → Nat
  | .invalidFrame => 1
  | .truncatedInput => 2
  | .huffmanDecodeFailure => 3
  | .reservoirInconsistency => 4
  | .emptyInput => 5
  | .noFrames => 6
  | .unsupportedFrame => 7
  | .illegalCommand => 8
  | .sequenceError => 9
  | .payloadOverflow => 10
  | .acInputExhausted => 11
  | .capacityFault => 12

/-- `ERR` with the bit of a condition set (R351, R352). -/
def setErrBit (err : BitVec 13) (c : Cond) : BitVec 13 := err ||| (1#13 <<< c.code)

/-- Whether raising a condition writes `LASTERR` and `ERRINFO`: always, but `TruncatedInput` only while
`LASTERR` is 0 (R351). -/
def latches (lastErr : BitVec 4) (c : Cond) : Bool := c != .truncatedInput || lastErr == 0

/-- The two bits of `AC_MODE` (10_state.md R24). -/
def AcMode.bits : AcMode → Nat
  | .idle => 0
  | .encoding => 1
  | .decoding => 2

/-- `STATUS`: bit 0 `DONE`, 1 `H_VALID`, 2 `SI_VALID`, 3 `MD_VALID`, 5:4 `AC_MODE` (R24). -/
def State.status (s : State) : BitVec 6 :=
  BitVec.ofNat 6 (s.done.toNat + 2 * s.hValid.toNat + 4 * s.siValid.toNat + 8 * s.mdValid.toNat
    + 16 * s.acMode.bits)

end Sys2Proof.Machine
end

