-- ==== Sys2Proof/Machine/Operands.lean ====
section
/-! DEFINITION. Where operands live: the buffers by id, the element addresses of the internal memories,
the side-information blocks by granule and channel, and the bit cursor that consuming commands read with
(00_scope.md R10, 10_state.md R32, R40 to R45). -/

namespace Sys2Proof.Machine

/-- The buffer with an id (20_memory.md R80). -/
def State.buf (s : State) : BufId → Buffer
  | .ibuf => s.ibuf
  | .mdbuf => s.mdbuf
  | .plain => s.plain
  | .code => s.code
  | .obuf => s.obuf

/-- One buffer replaced. -/
def State.setBuf (s : State) (i : BufId) (b : Buffer) : State :=
  match i with
  | .ibuf => { s with ibuf := b }
  | .mdbuf => { s with mdbuf := b }
  | .plain => { s with plain := b }
  | .code => { s with code := b }
  | .obuf => { s with obuf := b }

/-- A buffer's capacity, `none` for unbounded; `MD_CAP = 2048` (00_scope.md R6, 20_memory.md R97). -/
def State.cap (s : State) : BufId → Option Nat
  | .ibuf => s.cfg.ibufCap
  | .mdbuf => some 2048
  | .plain => s.cfg.plainCap
  | .code => s.cfg.codeCap
  | .obuf => s.cfg.obufCap

/-- The block `SI[gr][ch]` (10_state.md R40). -/
def SideBlocks.get (b : SideBlocks) (gr ch : Fin 2) : SideBlock :=
  match gr, ch with
  | 0, 0 => b.g0c0
  | 0, 1 => b.g0c1
  | 1, 0 => b.g1c0
  | 1, 1 => b.g1c1

/-- The blocks with `SI[gr][ch]` replaced. -/
def SideBlocks.set (b : SideBlocks) (gr ch : Fin 2) (v : SideBlock) : SideBlocks :=
  match gr, ch with
  | 0, 0 => { b with g0c0 := v }
  | 0, 1 => { b with g0c1 := v }
  | 1, 0 => { b with g1c0 := v }
  | 1, 1 => { b with g1c1 := v }

/-- Where `SAMP[gr][ch]` begins (10_state.md R43). -/
def sampBase (gr ch : Fin 2) : Nat := (2 * gr.val + ch.val) * 576

/-- The address of `SAMP[gr][ch][i]`. -/
def sampAddr (gr ch : Fin 2) (i : Nat) : Nat := sampBase gr ch + i

/-- Where `SCF_L[gr][ch]` begins (R42). -/
def scfLBase (gr ch : Fin 2) : Nat := (2 * gr.val + ch.val) * 21

/-- The address of `SCF_L[gr][ch][sfb]`. -/
def scfLAddr (gr ch : Fin 2) (sfb : Nat) : Nat := scfLBase gr ch + sfb

/-- Where `SCF_S[gr][ch]` begins (R42). -/
def scfSBase (gr ch : Fin 2) : Nat := (2 * gr.val + ch.val) * 39

/-- The address of `SCF_S[gr][ch][win][sfb]`. -/
def scfSAddr (gr ch : Fin 2) (win sfb : Nat) : Nat := scfSBase gr ch + win * 13 + sfb

/-- The address of `CNT[r][c][y]` (R45). -/
def cntAddr (r c : Nat) (y : Bool) : Nat := (r * 512 + c) * 2 + y.toNat

/-- `CHANNELS` as a number of channels, 1 or 2 after a header (R37); the block has two channels' worth of
registers, so a value no header gives is cut to 2 (assumption log 18). -/
def State.channels (s : State) : Nat := min s.hdr.channels.toNat 2

/-- `for gr in 0..1: for ch in 0..CHANNELS-1`, in that order (41, 42, 45 files). -/
def grChOrder (channels : Nat) : List (Fin 2 × Fin 2) :=
  [((0 : Fin 2), (0 : Fin 2)), (0, 1), (1, 0), (1, 1)].filter fun p => decide (p.2.val < channels)

/-- The prefix length `P`: header, CRC and side information in bytes (41_frame_parser.md R198). -/
def State.prefixLen (s : State) : Nat :=
  4 + 2 * s.hdr.crcPresent.toNat + (if s.hdr.channels = 1 then 17 else 32)

/-- `supported()`: MPEG-1 Layer III (41_frame_parser.md R181). -/
def State.supported (s : State) : Bool := s.hdr.version == 3 && s.hdr.layer == 3

/-- The bit cursor of one command: `CUR`, and the first missing bit met so far. -/
structure Cursor where
  cur : BitVec 32
  miss : Option Nat
deriving DecidableEq, Repr

/-- `Take(S, n)`: the bits at `CUR`, and `CUR` advanced modulo 2^32 (00_scope.md R10, 10_state.md R32).
Only the first missing bit is kept, since `raise TruncatedInput` latches only the first (R164). -/
def Cursor.take (c : Cursor) (b : Buffer) (n : Nat) : Nat × Cursor :=
  (b.bits c.cur.toNat n,
    { cur := c.cur + BitVec.ofNat 32 n, miss := c.miss.or (b.missing c.cur.toNat n) })

end Sys2Proof.Machine
end

