-- ==== Sys2Proof/Machine/Ops.lean ====
section
/-! DEFINITION. The operations the commands share: accepting a command, recording a condition (the
block's whole "exception entry", 60_exceptions.md R351, R370) and clearing it (its "return", R371),
appending to a buffer, and the ways a command ends. -/

namespace Sys2Proof.Machine

/-- Acceptance clears `LASTERR` and `ERRINFO` (30_encoding.md R110, 10_state.md R26). -/
def accept (s : State) : State := { s with lastErr := 0, errInfo := 0 }

/-- `raise C(info)`, the one operation that records a condition (60_exceptions.md R351): the sticky bit,
and `LASTERR`, `ERRINFO` unless it is a `TruncatedInput` after another condition. Nothing else changes. -/
def raise (c : Cond) (info : Nat) (s : State) : State :=
  { s with
    err := setErrBit s.err c
    lastErr := if latches s.lastErr c then BitVec.ofNat 4 c.code else s.lastErr
    errInfo := if latches s.lastErr c then BitVec.ofNat 32 info else s.errInfo }

/-- `raise TruncatedInput` at the first missing bit, if one is missing (20_memory.md R84). -/
def noteMissing (m : Option Nat) (s : State) : State :=
  match m with
  | none => s
  | some off => raise .truncatedInput off s

/-- The "return": every sticky bit cleared, nothing else (R371; `CLRERR`, R162). -/
def clearErrors (s : State) : State := { s with err := 0 }

/-- An illegal word: `raise IllegalCommand(w)` and nothing else (R361). -/
def illegalCommand (w : Word) (s : State) : State := raise .illegalCommand w.toNat s

/-- A legal word whose precondition fails: `raise SequenceError(w)` and nothing else (R360); the word of
a command is its encoding. -/
def sequenceError (i : Instr) (s : State) : State := raise .sequenceError (encode i).toNat s

/-- The three valid bits cleared (10_state.md R24). -/
def clearValid (s : State) : State := { s with hValid := false, siValid := false, mdValid := false }

/-- The state after a cursor's reads: `CUR` where it stands, a missing bit recorded. -/
def applyCursor (c : Cursor) (s : State) : State := noteMissing c.miss { s with cur := c.cur }

/-- The cursor a command starts from. -/
def State.cursor (s : State) : Cursor := { cur := s.cur, miss := none }

/-- How a command body ends: it goes on, or it stopped at a `CapacityFault`, "no later line of its rule
(or of the composite command it is a sub-step of) runs" (60_exceptions.md R362). -/
inductive Flow where
  | go (s : State)
  | halt (s : State)
deriving DecidableEq, Repr

/-- The next step of a body, if it goes on. -/
def Flow.bind (f : Flow) (k : State → Flow) : Flow :=
  match f with
  | .go s => k s
  | .halt s => .halt s

/-- The state a body leaves. -/
def Flow.state : Flow → State
  | .go s => s
  | .halt s => s

/-- Whether a buffer has no room (20_memory.md R97). -/
def State.full (s : State) (b : BufId) : Bool :=
  match s.cap b with
  | none => false
  | some c => decide (c ≤ (s.buf b).len)

/-- `Append(S, v)` (00_scope.md R10); at capacity `raise CapacityFault(id(S))` and stop (R362). -/
def append (b : BufId) (v : Byte) (s : State) : Flow :=
  if s.full b then .halt (raise .capacityFault b.id s) else .go (s.setBuf b ((s.buf b).append v))

/-- Several bytes appended in order. -/
def appendAll (b : BufId) : List Byte → State → Flow
  | [], s => .go s
  | v :: vs, s => (append b v s).bind (appendAll b vs)

/-- A command with no precondition: acceptance, then its body (30_encoding.md R110). -/
def always (body : State → State) (s : State) : Host.Outcome State Fault Refusal :=
  .next (body (accept s))

/-- A command with a precondition (R110, R360): acceptance, then its body, or `SequenceError`. -/
def guarded (i : Instr) (pre : State → Bool) (body : State → State) (s : State) :
    Host.Outcome State Fault Refusal :=
  .next (if pre (accept s) then body (accept s) else sequenceError i (accept s))

end Sys2Proof.Machine
end

