-- ==== Sys2Proof/Machine/Coder.lean ====
section
/-! DEFINITION. The adaptive binary arithmetic coder: ACINIT, ACENCB, ACDECB, ACFLUSH, ACENC, ACDEC
(44_arithmetic_coder.md). -/

namespace Sys2Proof.Machine

/-- The probability estimate that the next bit is 1, in units of 1/4096 (R282). -/
def probOf (n0 n1 : Nat) : Nat := (n1 + 1) * 4096 / (n0 + n1 + 2)

/-- `p(r, CTX)` (R282). -/
def Coder.prob (c : Coder) (r : Nat) : Nat :=
  probOf (Memory.read c.cnt (cntAddr r c.ctx.toNat false)).toNat
    (Memory.read c.cnt (cntAddr r c.ctx.toNat true)).toNat

/-- The split point (R285). With `LOW > HIGH`, which only a `CapacityFault` inside `ACENCB` can lead to, R285
gives no value: `HIGH - LOW` is then taken modulo 2^32 (DESIGN CHOICE, unsafe; assumption log 22). -/
def Coder.mid (c : Coder) (r : Nat) : BitVec 32 :=
  c.low + ((c.high - c.low) >>> 12) * BitVec.ofNat 32 (c.prob r)

/-- The part of the interval a decision keeps: `y = 1` takes `[LOW, mid]`, `y = 0` takes `[mid + 1, HIGH]`
(R285). -/
def Coder.narrow (c : Coder) (r : Nat) (y : Bool) : Coder :=
  if y then { c with high := c.mid r } else { c with low := c.mid r + 1 }

/-- The counts of region `r` after `y` in the current context: incremented, both halved when the
incremented one exceeds `COUNT_CEIL = 65534` (R284). -/
def Coder.countUp (c : Coder) (r : Nat) (y : Bool) : Memory 16 :=
  let a0 := cntAddr r c.ctx.toNat false
  let a1 := cntAddr r c.ctx.toNat true
  let ay := cntAddr r c.ctx.toNat y
  let m := Memory.write c.cnt ay (Memory.read c.cnt ay + 1)
  if 65534 < (Memory.read m ay).toNat then
    Memory.write (Memory.write m a0 (Memory.read m a0 >>> 1)) a1 (Memory.read m a1 >>> 1)
  else m

/-- The model update (R284): counts, then the context shifted; the ninth decision of a symbol resets the
context and moves `POS` on. -/
def Coder.update (c : Coder) (r : Nat) (y : Bool) : Coder :=
  let ctx := 2 * c.ctx.toNat + y.toNat
  { c with
    cnt := c.countUp r y
    ctx := if 512 ≤ ctx then 1 else BitVec.ofNat 10 ctx
    pos := if 512 ≤ ctx then c.pos + 1 else c.pos }

/-- One decision without its renormalisation: interval, then model (R286, R287). The split is taken before
the update. -/
def Coder.advance (c : Coder) (r : Nat) (y : Bool) : Coder := (c.narrow r y).update r y

/-- Whether `LOW` and `HIGH` agree on their top byte (R286). -/
def Coder.topAgree (c : Coder) : Bool := c.low.extractLsb' 24 8 == c.high.extractLsb' 24 8

/-- Both bounds shifted by a byte, `HIGH`'s vacated byte filled with 0xFF (R286). -/
def Coder.shift (c : Coder) : Coder :=
  { c with low := c.low <<< 8, high := c.high <<< 8 ||| 0xFF#32 }

/-- `XVAL <- trunc_32(XVAL << 8) | NextByte()`; beyond `CODE_LEN` the byte is 0 and nothing is raised
(R287). -/
def Coder.pull (c : Coder) (code : Buffer) : Coder :=
  { c with xval := c.xval <<< 8 ||| (code.read c.cpos.toNat).setWidth 32, cpos := c.cpos + 1 }

/-- The region index of the decision being coded (R283). -/
def State.region (s : State) : Nat :=
  if s.cfgModel = 0 then 0 else s.cfg.regionOf s.cfgNreg.toNat s.ac.pos.toNat

/-- The coder's part of `ACINIT`: fresh interval, context, position and counts (R281). -/
def Coder.fresh (c : Coder) : Coder :=
  { c with low := 0, high := 0xFFFFFFFF#32, ctx := 1, pos := 0, cnt := [] }

/-- The decoder's start: `CPOS <- 0`, `XVAL <- 0`, four bytes pulled (R281). -/
def Coder.prime (c : Coder) (code : Buffer) : Coder :=
  (((({ c with cpos := 0, xval := 0 }).pull code).pull code).pull code).pull code

/-- The body of `ACINIT dir` (R281). -/
def acinitBody (dir : Dir) (s : State) : State :=
  match dir with
  | .encode => { s with ac := s.ac.fresh, code := Buffer.empty, acMode := .encoding }
  | .decode =>
    { s with ac := s.ac.fresh.prime s.code, plain := Buffer.empty, acMode := .decoding }

/-- `ACINIT dir` (R281). -/
def execAcinit (dir : Dir) (s : State) : Host.Outcome State Fault Refusal := always (acinitBody dir) s

/-- The encoder's renormalisation (R286): a byte out and a shift while the top bytes agree. Four shifts
leave `LOW = 0` and `HIGH = 0xFFFFFFFF`, so four are enough. -/
def renormEnc : Nat → State → Flow
  | 0, s => .go s
  | fuel + 1, s =>
    if s.ac.topAgree then
      (append .code (s.ac.high.extractLsb' 24 8) s).bind fun s =>
        renormEnc fuel { s with ac := s.ac.shift }
    else .go s

/-- The body of `ACENCB y` (R286). -/
def encBody (y : Bool) (s : State) : Flow :=
  renormEnc 4 { s with ac := s.ac.advance s.region y }

/-- `ACENCB y` (R286). -/
def execAcencb (y : Bool) (s : State) : Host.Outcome State Fault Refusal :=
  guarded (.acencb y) (fun s => s.acMode == .encoding) (fun s => (encBody y s).state) s

/-- The decoder's renormalisation (R287): a shift and a byte in while the top bytes agree; four are
enough. -/
def Coder.renormDec (code : Buffer) : Nat → Coder → Coder
  | 0, c => c
  | fuel + 1, c => if c.topAgree then renormDec code fuel (c.shift.pull code) else c

/-- The decision the decoder makes: 1 when `XVAL ≤ mid` (R287). -/
def Coder.choice (c : Coder) (r : Nat) : Bool := decide (c.xval.toNat ≤ (c.mid r).toNat)

/-- The coder after the decision the decoder makes (R287). -/
def Coder.decoded (c : Coder) (code : Buffer) (r : Nat) : Coder :=
  Coder.renormDec code 4 (c.advance r (c.choice r))

/-- The body of `ACDECB` (R287), and the decoded bit. -/
def decBody (s : State) : State × Bool :=
  let y := s.ac.choice s.region
  ({ s with ac := s.ac.decoded s.code s.region, res := if y then 1 else 0 }, y)

/-- `ACDECB` (R287). -/
def execAcdecb (s : State) : Host.Outcome State Fault Refusal :=
  guarded .acdecb (fun s => s.acMode == .decoding) (fun s => (decBody s).1) s

/-- The four bytes of a word, most significant first (R290, 20_memory.md R85). -/
def wordBytes (w : Word) : List Byte :=
  [w.extractLsb' 24 8, w.extractLsb' 16 8, w.extractLsb' 8 8, w.extractLsb' 0 8]

/-- The body of `ACFLUSH` (R290). -/
def flushBody (s : State) : Flow :=
  (appendAll .code (wordBytes s.ac.low) s).bind fun s => .go { s with acMode := .idle }

/-- `ACFLUSH` (R290). -/
def execAcflush (s : State) : Host.Outcome State Fault Refusal :=
  guarded .acflush (fun s => s.acMode == .encoding) (fun s => (flushBody s).state) s

/-- The bits of a byte, most significant first. -/
def byteBits (v : Byte) : List Bool := (List.range 8).map fun i => v.getMsbD i

/-- The decisions that code a byte sequence (30_encoding.md R129, R288): for each byte a flag 0 and its
bits, at the end a flag 1. -/
def decisions (bytes : List Byte) : List Bool :=
  bytes.flatMap (fun v => false :: byteBits v) ++ [true]

/-- Decisions encoded in order. -/
def encBits : List Bool → State → Flow
  | [], s => .go s
  | y :: ys, s => (encBody y s).bind (encBits ys)

/-- The body of `ACENC` (R288). -/
def acencBody (s : State) : Flow :=
  (encBits (decisions s.plain.bytes) (acinitBody .encode s)).bind flushBody

/-- `ACENC` (R288). -/
def execAcenc (s : State) : Host.Outcome State Fault Refusal :=
  always (fun s => (acencBody s).state) s

/-- `n` decisions decoded, the first the most significant bit (R289). -/
def decBits : Nat → Nat → State → State × Nat
  | 0, c, s => (s, c)
  | n + 1, c, s => decBits n (2 * c + (decBody s).2.toNat) (decBody s).1

/-- The loop of `ACDEC` (R289), at most `fuel` symbols. -/
def acdecLoop : Nat → State → Host.Outcome State Fault Refusal
  | 0, _ => .fault .acdecLoopBound
  | fuel + 1, s =>
    if s.code.len < s.ac.cpos.toNat then
      .next { raise .acInputExhausted s.ac.cpos.toNat s with acMode := .idle }
    else match decBody s with
      | (s, true) => .next { s with acMode := .idle }
      | (s, false) =>
        match append .plain (BitVec.ofNat 8 (decBits 8 0 s).2) (decBits 8 0 s).1 with
        | .halt s => .next s
        | .go s => acdecLoop fuel s

/-- More symbols than `ACDEC` can decode (R289): every decision narrows an interval of at most 2^32
values or requests a byte, and it ends once it has requested a byte beyond `CODE`. -/
def acdecFuel (s : State) : Nat := (s.code.len + 1) * 2 ^ 32

/-- `ACDEC` (R289). -/
def execAcdec (s : State) : Host.Outcome State Fault Refusal :=
  acdecLoop (acdecFuel s) (acinitBody .decode (accept s))

end Sys2Proof.Machine
end

