-- ==== Sys2Proof/Machine/Control.lean ====
section
/-! DEFINITION. Control commands and the bit reader: NOP, SRST, CLRERR, SINIT, RDBITS
(40_control_and_bitreader.md). -/

namespace Sys2Proof.Machine

/-- `NOP` (R160). -/
def execNop (s : State) : Host.Outcome State Fault Refusal := always id s

/-- The body of `SRST` (R161): reset values but for the five kept items `IBUF`, `IN_LEN`, `START_OFF`,
`CFG_MODEL`, `CFG_NREG` (70_reset_and_hazards.md R390). The tables are fixed for the whole run (R83), and
the host's pending actions are not the block's. -/
def srstBody (s : State) : State :=
  { State.reset with
    ibuf := s.ibuf
    startOff := s.startOff
    cfgModel := s.cfgModel
    cfgNreg := s.cfgNreg
    cfg := s.cfg
    host := s.host
    readout := s.readout }

/-- `SRST` (R161). -/
def execSrst (s : State) : Host.Outcome State Fault Refusal := always srstBody s

/-- `CLRERR` (R162). -/
def execClrerr (s : State) : Host.Outcome State Fault Refusal := always clearErrors s

/-- The body of `SINIT` (R163). -/
def sinitBody (s : State) : State :=
  clearValid
    { s with
      obuf := Buffer.empty
      frames := 0
      skipped := 0
      ring := []
      foff := s.startOff
      done := false }

/-- `SINIT` (R163). -/
def execSinit (s : State) : Host.Outcome State Fault Refusal := always sinitBody s

/-- The body of `RDBITS buf, adv, len` (R164, R165). -/
def rdbitsBody (b : BufId) (adv : Bool) (len : Nat) (s : State) : State :=
  noteMissing ((s.buf b).missing s.cur.toNat len)
    { s with
      res := BitVec.ofNat 32 ((s.buf b).bits s.cur.toNat len)
      cur := if adv then s.cur + BitVec.ofNat 32 len else s.cur }

/-- `RDBITS buf, adv, len` (R165); `len > 32` is no legal word (30_encoding.md R113). -/
def execRdbits (b : BufId) (adv : Bool) (len : Nat) (s : State) : Host.Outcome State Fault Refusal :=
  if len ≤ 32 then always (rdbitsBody b adv len) s
  else .next (illegalCommand (encode (.rdbits b adv len)) (accept s))

end Sys2Proof.Machine
end

