-- ==== Sys2Proof/Machine/Parser.lean ====
section
/-! DEFINITION. The frame parser: HDR, SIDE, RESV, SCF, ADV (41_frame_parser.md). -/

namespace Sys2Proof.Machine

/-- Header bits `hi` down to `hi - n + 1` as a number, given the low bit (30_encoding.md R121). -/
def field (w : Word) (lo n : Nat) : Nat := (w.extractLsb' lo n).toNat

/-- Whether a header word is rejected (30_encoding.md R122, R182): sync, version code 1, layer code 0,
bitrate index 0 or 15, sampling-rate index 3. -/
def headerRejected (w : Word) : Bool :=
  field w 21 11 != 0x7FF || field w 19 2 == 1 || field w 17 2 == 0 || field w 12 4 == 0
    || field w 12 4 == 15 || field w 10 2 == 3

/-- The header registers of an accepted header word (R182, R183, R185). -/
def parseHeader (c : Config) (w : Word) : Header :=
  let ver := field w 19 2
  let layer := 4 - field w 17 2
  let bitrate : BitVec 19 := BitVec.ofNat 19 (1000 * c.bitrate ver layer (field w 12 4))
  let srate : BitVec 16 := BitVec.ofNat 16 (c.srate ver (field w 10 2))
  { hRaw := w
    version := w.extractLsb' 19 2
    layer := BitVec.ofNat 2 layer
    crcPresent := 1 - w.extractLsb' 16 1
    brIdx := w.extractLsb' 12 4
    srIdx := w.extractLsb' 10 2
    bitrate := bitrate
    srate := srate
    padding := w.extractLsb' 9 1
    chmode := w.extractLsb' 6 2
    channels := if field w 6 2 = 3 then 1 else 2
    modeExt := w.extractLsb' 4 2
    emphasis := w.extractLsb' 0 2
    frameSize := BitVec.ofNat 12
      (c.spf ver layer / 8 * bitrate.toNat / srate.toNat + field w 9 1) }

/-- The header word at `FOFF` (R182, 20_memory.md R85). -/
def State.headerWord (s : State) : Word := BitVec.ofNat 32 (s.ibuf.bits (8 * s.foff.toNat) 32)

/-- The body of `HDR` (R182). On rejection only `H_RAW` and the valid bits change. -/
def hdrBody (s : State) : State :=
  let w := s.headerWord
  let s := noteMissing (s.ibuf.missing (8 * s.foff.toNat) 32) (clearValid s)
  if headerRejected w then
    raise .invalidFrame s.foff.toNat { s with hdr := { s.hdr with hRaw := w } }
  else { s with hdr := parseHeader s.cfg w, hValid := true }

/-- `HDR` (R182). -/
def execHdr (s : State) : Host.Outcome State Fault Refusal := always hdrBody s

/-- The bits of one side-information field. -/
def siField (b : Buffer) (pos off n : Nat) : BitVec n := BitVec.ofNat n (b.bits (pos + off) n)

/-- One 59-bit block at bit offset `pos` (30_encoding.md R124, R190); `NZC` is not in it and is kept. -/
def sideBlock (b : Buffer) (pos : Nat) (nzc : BitVec 10) : SideBlock :=
  let ws := b.bit (pos + 33)
  { p23len := siField b pos 0 12
    bigv := siField b pos 12 9
    ggain := siField b pos 21 8
    sfcomp := siField b pos 29 4
    wsw := siField b pos 33 1
    btype := if ws then siField b pos 34 2 else 0
    mixed := if ws then siField b pos 36 1 else 0
    tsel0 := if ws then siField b pos 37 5 else siField b pos 34 5
    tsel1 := if ws then siField b pos 42 5 else siField b pos 39 5
    tsel2 := if ws then 0 else siField b pos 44 5
    sbgain0 := if ws then siField b pos 47 3 else 0
    sbgain1 := if ws then siField b pos 50 3 else 0
    sbgain2 := if ws then siField b pos 53 3 else 0
    r0cnt := if ws then 0 else siField b pos 49 4
    r1cnt := if ws then 0 else siField b pos 53 3
    preflag := siField b pos 56 1
    sfscale := siField b pos 57 1
    c1sel := siField b pos 58 1
    nzc := nzc }

/-- The bit of `IBUF` where the side information begins (30_encoding.md R123, R190). -/
def State.sidePos (s : State) : Nat := 8 * (s.foff.toNat + 4 + 2 * s.hdr.crcPresent.toNat)

/-- The width of the private bits: 5 for one channel, 3 for two (R123). -/
def privateBits (channels : Nat) : Nat := if channels = 1 then 5 else 3

/-- Where the blocks begin: after `main_data_begin`, the private bits and four `scfsi` bits a channel
(R123). -/
def blocksOffset (channels : Nat) : Nat := 9 + privateBits channels + 4 * channels

/-- How many bits `SIDE` reads: 136 for one channel, 256 for two (R123, R190). -/
def sideBits (channels : Nat) : Nat := blocksOffset channels + 59 * (2 * channels)

/-- `SCFSI`: bit `4·ch + b` is `scfsi[ch][b]`, band group 0 first in the stream; 0 for a channel that does
not exist (10_state.md R39, R190). -/
def readScfsi (b : Buffer) (pos channels : Nat) : BitVec 8 :=
  BitVec.ofNat 8 <|
    ((List.range (4 * channels)).map fun k => (b.bit (pos + 9 + privateBits channels + k)).toNat * 2 ^ k).sum

/-- The block `SIDE` stores for (gr, ch): the stream's for a channel that exists, all 0 but `NZC` for one
that does not (R190). Blocks are granule-major (R123). -/
def sideBlockOf (b : Buffer) (pos channels : Nat) (gr ch : Fin 2) (old : SideBlock) : SideBlock :=
  if ch.val < channels then
    sideBlock b (pos + blocksOffset channels + 59 * (channels * gr.val + ch.val)) old.nzc
  else { SideBlock.reset with nzc := old.nzc }

/-- The body of `SIDE` (R190). It reads `sideBits` bits in order from `sidePos`, so the first missing bit
of the whole read is what `TruncatedInput` records (log 10). -/
def sideBody (s : State) : State :=
  let pos := s.sidePos
  let n := s.channels
  noteMissing (s.ibuf.missing pos (sideBits n))
    { s with
      mdb := siField s.ibuf pos 0 9
      siPrivate := BitVec.ofNat 5 (s.ibuf.bits (pos + 9) (privateBits n))
      scfsi := readScfsi s.ibuf pos n
      si :=
        { g0c0 := sideBlockOf s.ibuf pos n 0 0 s.si.g0c0
          g0c1 := sideBlockOf s.ibuf pos n 0 1 s.si.g0c1
          g1c0 := sideBlockOf s.ibuf pos n 1 0 s.si.g1c0
          g1c1 := sideBlockOf s.ibuf pos n 1 1 s.si.g1c1 }
      siValid := true
      mdValid := false }

/-- `SIDE` needs a valid header of a supported frame (60_exceptions.md R360). -/
def sidePre (s : State) : Bool := s.hValid && s.supported

/-- `SIDE` (R190). -/
def execSide (s : State) : Host.Outcome State Fault Refusal := guarded .side sidePre sideBody s

/-- `Copy(a, b)`: the bytes at `a … b - 1` (R199). -/
def copyBytes (b : Buffer) (lo hi : Nat) : List Byte := b.slice lo (hi - lo)

/-- The first missing bit of `Copy(a, b)`, if a byte is missing: `8 ·` the first address at or beyond the
length (R199, 20_memory.md R84). -/
def copyMissing (b : Buffer) (lo hi : Nat) : Option Nat :=
  if lo < hi ∧ b.len < hi then some (8 * max lo b.len) else none

/-- The walk backward through the history (R199, R200): `start` is where the last walked frame begins,
`acc` the bytes gathered, `parts` their ranges, oldest first. `none` when the history is exhausted or a
frame would start before byte 0. -/
def reservoirWalk (mdb p : Nat) :
    List (BitVec 12) → Nat → Nat → List (Nat × Nat) → Option (Nat × List (Nat × Nat))
  | [], _, acc, parts => if mdb ≤ acc then some (acc, parts) else none
  | size :: older, start, acc, parts =>
    if mdb ≤ acc then some (acc, parts)
    else if start < size.toNat then none
    else
      reservoirWalk mdb p older (start - size.toNat) (acc + (size.toNat - p))
        ((start - size.toNat + p, start - size.toNat + max size.toNat p) :: parts)

/-- The copies of the walked ranges noted as missing where they are, in list order. -/
def noteCopies (b : Buffer) (parts : List (Nat × Nat)) (s : State) : State :=
  parts.foldl (fun s r => noteMissing (copyMissing b r.1 r.2) s) s

/-- The body of `RESV` (R199). The rule assigns `MDBUF` whole, so all bytes are stored and nothing is raised
even where header tables other than the defaults give more than `MD_CAP` bytes, which R6 and R82 do not foresee
(DESIGN CHOICE, unsafe; assumption log 23). -/
def resvBody (s : State) : State :=
  let p := s.prefixLen
  let foff := s.foff.toNat
  let stop := foff + s.hdr.frameSize.toNat
  let own := copyBytes s.ibuf (foff + p) stop
  let s := noteMissing (copyMissing s.ibuf (foff + p) stop) s
  if s.mdb = 0 then
    { s with mdbuf := Buffer.ofBytes own, mdValid := true, cur := 0 }
  else
    match reservoirWalk s.mdb.toNat p s.ring foff 0 [] with
    | none =>
      { raise .reservoirInconsistency foff s with mdbuf := Buffer.empty, mdValid := false, cur := 0 }
    | some (acc, parts) =>
      let older := parts.flatMap fun r => copyBytes s.ibuf r.1 r.2
      { noteCopies s.ibuf parts s with
        mdbuf := Buffer.ofBytes (older.drop (acc - s.mdb.toNat) ++ own)
        mdValid := true
        cur := 0 }

/-- `RESV` (R199). -/
def execResv (s : State) : Host.Outcome State Fault Refusal := guarded .resv (·.siValid) resvBody s

/-- Where a scale factor goes: an entry of the long or of the short image (R206). -/
inductive ScfDest where
  | long (sfb : Nat)
  | short (win sfb : Nat)
deriving DecidableEq, Repr

/-- One scale factor of a layout: where it goes, how many bits it has, and the shared value where `scfsi`
copies it and no bit is read (R207). -/
structure ScfSlot where
  dest : ScfDest
  width : Nat
  shared : Option (BitVec 4)
deriving DecidableEq, Repr

/-- The band group of a long band: `[0,6), [6,11), [11,16), [16,21)` (R207). -/
def bandGroup (sfb : Nat) : Nat := if sfb < 6 then 0 else if sfb < 11 then 1 else if sfb < 16 then 2 else 3

/-- R207: the long-window layout. -/
def longSlots (s : State) (gr ch : Fin 2) (slen1 slen2 : Nat) : List ScfSlot :=
  (List.range 21).map fun sfb =>
    { dest := .long sfb
      width := if sfb < 11 then slen1 else slen2
      shared :=
        if gr = 1 ∧ s.scfsi.getLsbD (4 * ch.val + bandGroup sfb) then
          some (Memory.read s.scfL (scfLAddr 0 ch sfb))
        else none }

/-- Short bands `lo … hi - 1`, band-major, window-minor (R208, R209). -/
def shortSlots (lo hi width : Nat) : List ScfSlot :=
  (List.range (hi - lo)).flatMap fun k =>
    (List.range 3).map fun win => { dest := .short win (lo + k), width := width, shared := none }

/-- R209: the mixed layout's first eight bands. -/
def mixedLongSlots (slen1 : Nat) : List ScfSlot :=
  (List.range 8).map fun sfb => { dest := .long sfb, width := slen1, shared := none }

/-- The layout of a block (R206): mixed R209, short R208, else long R207. -/
def scfSlots (s : State) (gr ch : Fin 2) : List ScfSlot :=
  let g := s.si.get gr ch
  let (slen1, slen2) := s.cfg.slen g.sfcomp.toNat
  if g.wsw = 1 ∧ g.btype = 2 then
    if g.mixed = 1 then mixedLongSlots slen1 ++ shortSlots 3 6 slen1 ++ shortSlots 6 12 slen2
    else shortSlots 0 6 slen1 ++ shortSlots 6 12 slen2
  else longSlots s gr ch slen1 slen2

/-- The value of one slot, read or shared. -/
def readSlot (b : Buffer) (slot : ScfSlot) (c : Cursor) : BitVec 4 × Cursor :=
  match slot.shared with
  | some v => (v, c)
  | none => (BitVec.ofNat 4 (c.take b slot.width).1, (c.take b slot.width).2)

/-- The values of a layout, read in order. -/
def readSlots (b : Buffer) : List ScfSlot → Cursor → List (ScfDest × BitVec 4) × Cursor
  | [], c => ([], c)
  | slot :: rest, c =>
    let (v, c) := readSlot b slot c
    let (vs, c) := readSlots b rest c
    ((slot.dest, v) :: vs, c)

/-- The writes to `SCF_L[gr][ch]` among the values read. -/
def longWrites (gr ch : Fin 2) (vs : List (ScfDest × BitVec 4)) : List (Nat × BitVec 4) :=
  vs.filterMap fun p => match p.1 with
    | .long sfb => some (scfLAddr gr ch sfb, p.2)
    | .short _ _ => none

/-- The writes to `SCF_S[gr][ch]` among the values read. -/
def shortWrites (gr ch : Fin 2) (vs : List (ScfDest × BitVec 4)) : List (Nat × BitVec 4) :=
  vs.filterMap fun p => match p.1 with
    | .long _ => none
    | .short win sfb => some (scfSAddr gr ch win sfb, p.2)

/-- The body of `SCF gr, ch` (R206): all 21 + 39 entries of (gr, ch) written, those of no slot to 0. -/
def scfBody (gr ch : Fin 2) (s : State) : State :=
  let (vs, c) := readSlots s.mdbuf (scfSlots s gr ch) s.cursor
  applyCursor c
    { s with
      p2start := s.cur
      scfL := Memory.writeAll (Memory.clear s.scfL (scfLBase gr ch) (scfLBase gr ch + 21)) (longWrites gr ch vs)
      scfS := Memory.writeAll (Memory.clear s.scfS (scfSBase gr ch) (scfSBase gr ch + 39)) (shortWrites gr ch vs) }

/-- `MD_VALID = 1` and `ch < CHANNELS` (60_exceptions.md R360). -/
def granulePre (ch : Fin 2) (s : State) : Bool := s.mdValid && decide (ch.val < s.hdr.channels.toNat)

/-- `SCF gr, ch` (R206). -/
def execScf (gr ch : Fin 2) (s : State) : Host.Outcome State Fault Refusal :=
  guarded (.scf gr ch) (granulePre ch) (scfBody gr ch) s

/-- The body of `ADV` (R216): the frame size pushed on the history of depth 9, `FOFF` moved on. -/
def advBody (s : State) : State :=
  clearValid
    { s with
      ring := (s.hdr.frameSize :: s.ring).take 9
      foff := s.foff + s.hdr.frameSize.setWidth 28 }

/-- `ADV` (R216). -/
def execAdv (s : State) : Host.Outcome State Fault Refusal := guarded .adv (·.hValid) advBody s

end Sys2Proof.Machine
end

