-- ==== Sys2Proof/Machine/Spectrum.lean ====
section
/-! DEFINITION. The spectrum decoder: HUFPAIR, HUFQUAD, SPEC (42_spectrum_huffman.md). -/

namespace Sys2Proof.Machine

/-- The number of the first entry equal to `(code, len)`, counting from `i`. -/
def findCode (code len : Nat) : List CodeWord → Nat → Option Nat
  | [], _ => none
  | e :: es, i => if e.len = len ∧ e.code = code then some i else findCode code len es (i + 1)

/-- The search of `Match` (R232) with `fuel` bits left to examine, `l` examined, `v` their value. A bit is
read only when it is examined, so only examined bits can be missing. -/
def matchFrom (b : Buffer) (es : List CodeWord) (cur : BitVec 32) :
    Nat → Nat → Nat → Option Nat → Option Nat × Cursor
  | 0, _, _, miss => (none, { cur := cur, miss := miss })
  | fuel + 1, l, v, miss =>
    let v := 2 * v + b.bits (cur.toNat + l) 1
    let miss := miss.or (b.missing (cur.toNat + l) 1)
    match findCode v (l + 1) es 0 with
    | some i => (some i, { cur := cur + BitVec.ofNat 32 (l + 1), miss := miss })
    | none => matchFrom b es cur fuel (l + 1) v miss

/-- `Match(entries)` (R232): the entry number and `CUR` after its code word, or no match within
`HUFF_BUDGET = 32` bits (00_scope.md R5), `CUR` unchanged. -/
def matchCode (b : Buffer) (es : List CodeWord) (c : Cursor) : Option Nat × Cursor :=
  matchFrom b es c.cur 32 0 0 c.miss

/-- A magnitude with its linbits escape (R235): `lb` raw bits added when the table escapes and the
magnitude is 15. -/
def readEscape (b : Buffer) (lb x : Nat) (c : Cursor) : Nat × Cursor :=
  if 0 < lb ∧ x = 15 then (x + (c.take b lb).1, (c.take b lb).2) else (x, c)

/-- The sign of a magnitude (R235, R238): one bit for a nonzero value, 1 = negative. -/
def readSign (b : Buffer) (m : Nat) (c : Cursor) : Int × Cursor :=
  if m = 0 then (0, c)
  else if (c.take b 1).1 = 1 then (-(m : Int), (c.take b 1).2) else ((m : Int), (c.take b 1).2)

/-- One value of a pair: escape, then sign (R127, R235). -/
def readValue (b : Buffer) (lb x : Nat) (c : Cursor) : Int × Cursor :=
  readSign b (readEscape b lb x c).1 (readEscape b lb x c).2

/-- One pair word of table `t` (R235): the two values, or `none` for a decode failure; and the cursor. -/
def readPair (cfg : Config) (b : Buffer) (t : Nat) (c : Cursor) : Option (Int × Int) × Cursor :=
  if t = 0 then (some (0, 0), c)
  else match cfg.pairTree t with
    | none => (none, c)
    | some tree =>
      match matchCode b tree.entries c with
      | (none, c) => (none, c)
      | (some i, c) =>
        let x := readValue b (cfg.linbits t) (i / tree.dim) c
        let y := readValue b (cfg.linbits t) (i % tree.dim) x.2
        (some (x.1, y.1), y.2)

/-- The quadruple index `q = 8v + 4w + 2x + y` (R237): the inverted nibble for `sel = 1`, `QTAB_A` for
`sel = 0`. -/
def readQuadIndex (cfg : Config) (b : Buffer) (sel : Bool) (c : Cursor) : Option Nat × Cursor :=
  if sel then (some (15 - (c.take b 4).1), (c.take b 4).2) else matchCode b cfg.qtabA c

/-- One quad word (R238): the four values with signs in the order v, w, x, y, or `none` for a decode
failure; and the cursor. -/
def readQuad (cfg : Config) (b : Buffer) (sel : Bool) (c : Cursor) : Option (List Int) × Cursor :=
  match readQuadIndex cfg b sel c with
  | (none, c) => (none, c)
  | (some q, c) =>
    let v := readSign b (q / 8 % 2) c
    let w := readSign b (q / 4 % 2) v.2
    let x := readSign b (q / 2 % 2) w.2
    let y := readSign b (q % 2) x.2
    (some [v.1, w.1, x.1, y.1], y.2)

/-- Consecutive samples written from `IDX` on, 16-bit two's complement (10_state.md R43). -/
def sampWrites (gr ch : Fin 2) (idx : Nat) (vs : List Int) : List (Nat × BitVec 16) :=
  vs.zipIdx.map fun p => (sampAddr gr ch (idx + p.2), BitVec.ofInt 16 p.1)

/-- The samples of a decoded word stored and `IDX` moved on, or `HuffmanDecodeFailure(CUR)` with nothing
else changed (R235, R238); the flag says whether the word was decoded. -/
def storeWord (gr ch : Fin 2) (vs : Option (List Int)) (c : Cursor) (s : State) : State × Bool :=
  match vs with
  | none => (raise .huffmanDecodeFailure s.cur.toNat (noteMissing c.miss s), false)
  | some vs =>
    (applyCursor c
      { s with
        samp := Memory.writeAll s.samp (sampWrites gr ch s.idx.toNat vs)
        idx := s.idx + BitVec.ofNat 10 vs.length }, true)

/-- The body of `HUFPAIR gr, ch, tbl` (R235), and whether it decoded a word. -/
def pairBody (gr ch : Fin 2) (t : Nat) (s : State) : State × Bool :=
  let r := readPair s.cfg s.mdbuf t s.cursor
  storeWord gr ch (r.1.map fun p => [p.1, p.2]) r.2 s

/-- The body of `HUFQUAD gr, ch, sel` (R238), and whether it decoded a word. -/
def quadBody (gr ch : Fin 2) (sel : Bool) (s : State) : State × Bool :=
  let r := readQuad s.cfg s.mdbuf sel s.cursor
  storeWord gr ch r.1 r.2 s

/-- `HUFPAIR` also needs room for two samples (60_exceptions.md R360). -/
def pairPre (ch : Fin 2) (s : State) : Bool := granulePre ch s && decide (s.idx.toNat + 2 ≤ 576)

/-- `HUFQUAD` also needs room for four samples (R360). -/
def quadPre (ch : Fin 2) (s : State) : Bool := granulePre ch s && decide (s.idx.toNat + 4 ≤ 576)

/-- `HUFPAIR gr, ch, tbl` (R235). -/
def execHufpair (gr ch : Fin 2) (tbl : Fin 32) (s : State) : Host.Outcome State Fault Refusal :=
  guarded (.hufpair gr ch tbl) (pairPre ch) (fun s => (pairBody gr ch tbl.val s).1) s

/-- `HUFQUAD gr, ch, sel` (R238). -/
def execHufquad (gr ch : Fin 2) (sel : Bool) (s : State) : Host.Outcome State Fault Refusal :=
  guarded (.hufquad gr ch sel) (quadPre ch) (fun s => (quadBody gr ch sel s).1) s

/-- R239: the boundary `r0`. -/
def State.r0 (s : State) (g : SideBlock) : Nat :=
  if g.wsw = 1 then 36 else s.cfg.sfbLong s.hdr.srIdx.toNat (g.r0cnt.toNat + 1)

/-- R239: the boundary `r1`, its index clamped to 22. -/
def State.r1 (s : State) (g : SideBlock) : Nat :=
  if g.wsw = 1 then 576
  else s.cfg.sfbLong s.hdr.srIdx.toNat (min (g.r0cnt.toNat + g.r1cnt.toNat + 2) 22)

/-- The table of a pair that starts at index `i` (R239, R240). -/
def pairTable (s : State) (g : SideBlock) (i : Nat) : Nat :=
  if i < s.r0 g then g.tsel0.toNat else if i < s.r1 g then g.tsel1.toNat else g.tsel2.toNat

/-- `bvend` (R240, R242 (b)). -/
def bvEnd (g : SideBlock) : Nat := min (2 * g.bigv.toNat) 576

/-- `END`, the first bit after the granule's part 3 (R240), a natural number. -/
def State.granuleEnd (s : State) (g : SideBlock) : Nat := s.p2start.toNat + g.p23len.toNat

/-- The big-value loop (R240), at most `fuel` pairs; each moves `IDX` by 2 towards `bvend ≤ 576`, so 288
are enough. The flag is `ok`. -/
def pairLoop (gr ch : Fin 2) (g : SideBlock) : Nat → State → State × Bool
  | 0, s => (s, true)
  | fuel + 1, s =>
    if s.idx.toNat < bvEnd g then
      match pairBody gr ch (pairTable s g s.idx.toNat) s with
      | (s, true) => pairLoop gr ch g fuel s
      | (s, false) => (s, false)
    else (s, true)

/-- The quadruple loop (R240), at most `fuel` groups; each moves `IDX` by 4, so 144 are enough. -/
def quadLoop (gr ch : Fin 2) (g : SideBlock) (stop : Nat) : Nat → State → State × Bool
  | 0, s => (s, true)
  | fuel + 1, s =>
    if s.cur.toNat < stop ∧ s.idx.toNat + 4 ≤ 576 then
      match quadBody gr ch (g.c1sel == 1) s with
      | (s, true) => quadLoop gr ch g stop fuel s
      | (s, false) => (s, false)
    else (s, true)

/-- The two loops of `SPEC` (R240): the quadruples only when the big values did not fail. -/
def specLoops (gr ch : Fin 2) (g : SideBlock) (stop : Nat) (s : State) : State × Bool :=
  match pairLoop gr ch g 288 s with
  | (s, true) => quadLoop gr ch g stop 144 s
  | (s, false) => (s, false)

/-- The first lines of `SPEC` (R240): the granule's samples zeroed, `IDX <- 0`. -/
def specStart (gr ch : Fin 2) (s : State) : State :=
  { s with samp := Memory.clear s.samp (sampBase gr ch) (sampBase gr ch + 576), idx := 0 }

/-- The last lines of `SPEC` (R240): `NZC <- IDX`, `CUR <- END`. -/
def specEnd (gr ch : Fin 2) (stop : Nat) (s : State) : State :=
  { s with
    si := s.si.set gr ch { s.si.get gr ch with nzc := s.idx }
    cur := BitVec.ofNat 32 stop }

/-- The body of `SPEC gr, ch` (R240), and whether no word failed. -/
def specBody (gr ch : Fin 2) (s : State) : State × Bool :=
  let g := s.si.get gr ch
  let stop := s.granuleEnd g
  let r := specLoops gr ch g stop (specStart gr ch s)
  (specEnd gr ch stop r.1, r.2)

/-- `SPEC gr, ch` (R240). -/
def execSpec (gr ch : Fin 2) (s : State) : Host.Outcome State Fault Refusal :=
  guarded (.spec gr ch) (granulePre ch) (fun s => (specBody gr ch s).1) s

end Sys2Proof.Machine
end

