-- ==== Sys2Proof/Machine/Container.lean ====
section
/-! DEFINITION. The container writer and the frame orchestrator: SER, EMIT, FRAME, RUN
(45_container_orchestrator.md). Sub-steps are the bodies of the other commands, without their acceptance. -/

namespace Sys2Proof.Machine

/-- The two bytes of a 16-bit value, high byte first (20_memory.md R85). -/
def halfBytes (v : BitVec 16) : List Byte := [v.extractLsb' 8 8, v.extractLsb' 0 8]

/-- The bytes of one granule and channel's 576 samples (R321). -/
def granuleBytes (samp : Memory 16) (gr ch : Fin 2) : List Byte :=
  (List.range 576).flatMap fun i => halfBytes (Memory.read samp (sampAddr gr ch i))

/-- The plain stream (30_encoding.md R128): granule-major, then channel, then index. -/
def serBytes (s : State) : List Byte :=
  (grChOrder s.channels).flatMap fun p => granuleBytes s.samp p.1 p.2

/-- The body of `SER` (R321). -/
def serBody (s : State) : Flow := appendAll .plain (serBytes s) { s with plain := Buffer.empty }

/-- `SER` (R321). -/
def execSer (s : State) : Host.Outcome State Fault Refusal :=
  guarded .ser (·.hValid) (fun s => (serBody s).state) s

/-- `n` bytes of `IBUF` from address `a` on appended to `OBUF`, a missing byte noted before it is appended
(R323). -/
def copyHeader : Nat → Nat → State → Flow
  | 0, _, s => .go s
  | n + 1, a, s =>
    (append .obuf (s.ibuf.read a) (noteMissing (copyMissing s.ibuf a (a + 1)) s)).bind
      (copyHeader n (a + 1))

/-- The container frame appended to `OBUF` (R323, 30_encoding.md R130): header and side information
verbatim, the payload length high byte first, the payload; then `FRAMES` counts it. -/
def writeFrame (s : State) : Flow :=
  (copyHeader s.prefixLen s.foff.toNat s).bind fun s =>
    (appendAll .obuf (halfBytes (BitVec.ofNat 16 s.code.len)) s).bind fun s =>
      (appendAll .obuf s.code.bytes s).bind fun s => .go { s with frames := s.frames + 1 }

/-- `EMIT` after `SER` and `ACENC`: the frame, unless its payload does not fit the length field (R323,
60_exceptions.md R363). -/
def emitFrame (s : State) : Flow :=
  if 65535 < s.code.len then .go (raise .payloadOverflow s.foff.toNat s) else writeFrame s

/-- The body of `EMIT` (R323). -/
def emitBody (s : State) : Flow := ((serBody s).bind acencBody).bind emitFrame

/-- `H_VALID = 1` and `SI_VALID = 1` (60_exceptions.md R360). -/
def emitPre (s : State) : Bool := s.hValid && s.siValid

/-- `EMIT` (R323). -/
def execEmit (s : State) : Host.Outcome State Fault Refusal :=
  guarded .emit emitPre (fun s => (emitBody s).state) s

/-- A block with `NZC` 0. -/
def SideBlock.clearNzc (g : SideBlock) : SideBlock := { g with nzc := 0 }

/-- "SAMP <- all 0; NZC <- all 0; SCF_L <- all 0; SCF_S <- all 0" (R326, R327). -/
def zeroGranules (s : State) : State :=
  { s with
    samp := []
    scfL := []
    scfS := []
    si := ⟨s.si.g0c0.clearNzc, s.si.g0c1.clearNzc, s.si.g1c0.clearNzc, s.si.g1c1.clearNzc⟩ }

/-- The granules decoded in order until one fails (R326). -/
def decodeGranules : List (Fin 2 × Fin 2) → State → State
  | [], s => s
  | (gr, ch) :: rest, s =>
    match specBody gr ch (scfBody gr ch s) with
    | (s, true) => decodeGranules rest s
    | (s, false) => s

/-- The decoding half of `FRAME` for a supported header (R326): side information, zeroed memories,
reservoir, and the granules when the reservoir was resolved. -/
def frameDecode (s : State) : State :=
  let s := resvBody (zeroGranules (sideBody s))
  if s.mdValid then decodeGranules (grChOrder s.channels) s else s

/-- `FRAME` on a rejected header (R326): one byte stepped over, history emptied. -/
def skipByte (s : State) : State :=
  { s with foff := s.foff + 1, skipped := s.skipped + 1, ring := [] }

/-- `FRAME` on a valid header that is not supported (R326): the frame stepped over, history emptied. -/
def skipFrame (s : State) : State :=
  { raise .unsupportedFrame s.foff.toNat s with
    foff := s.foff + s.hdr.frameSize.setWidth 28
    skipped := s.skipped + 1
    ring := []
    hValid := false }

/-- `FRAME` after `HDR` (R326): the three ways a frame can go. -/
def frameAfterHdr (s : State) : Flow :=
  if !s.hValid then .go (skipByte s)
  else if !s.supported then .go (skipFrame s)
  else (emitBody (frameDecode s)).bind fun s => .go (advBody s)

/-- Whether more than a header's 4 bytes remain: `FOFF + 4 < IN_LEN` (R326, R328). -/
def State.moreInput (s : State) : Bool := decide (s.foff.toNat + 4 < s.ibuf.len)

/-- The body of `FRAME` (R326). -/
def frameBody (s : State) : Flow :=
  if s.moreInput then frameAfterHdr (hdrBody s) else .go { s with done := true }

/-- `FRAME` (R326). -/
def execFrame (s : State) : Host.Outcome State Fault Refusal :=
  always (fun s => (frameBody s).state) s

/-- The end of `RUN` (R328). -/
def runEnd (s : State) : State :=
  { (if s.frames = 0 then raise .noFrames s.foff.toNat s else s) with done := true }

/-- The loop of `RUN` (R328), at most `fuel` frames; a `CapacityFault` ends the command at once (R362). -/
def runLoop : Nat → State → Host.Outcome State Fault Refusal
  | 0, s => if s.moreInput then .fault .runLoopBound else .next (runEnd s)
  | fuel + 1, s =>
    if s.moreInput then
      match frameBody s with
      | .halt s => .next s
      | .go s => runLoop fuel s
    else .next (runEnd s)

/-- `RUN` after `SINIT` (R328). Each `FRAME` moves `FOFF` on by at least 1, so `IN_LEN` frames are
enough. -/
def runBody (s : State) : Host.Outcome State Fault Refusal :=
  if s.ibuf.len = 0 then .next { raise .emptyInput 0 s with done := true }
  else runLoop s.ibuf.len s

/-- `RUN` (R328). -/
def execRun (s : State) : Host.Outcome State Fault Refusal := runBody (sinitBody (accept s))

end Sys2Proof.Machine
end

