-- ==== Sys2Proof/Machine/Dispatch.lean ====
section
/-! DEFINITION. One arm for each command: its acceptance and its rule (30_encoding.md R110, R112). -/

namespace Sys2Proof.Machine

def exec (i : Instr) (s : State) : Host.Outcome State Fault Refusal :=
  match i with
  | .nop => Sys2Proof.Machine.execNop s
  | .srst => Sys2Proof.Machine.execSrst s
  | .clrerr => Sys2Proof.Machine.execClrerr s
  | .sinit => Sys2Proof.Machine.execSinit s
  | .rdbits buf adv len => Sys2Proof.Machine.execRdbits buf adv len s
  | .hdr => Sys2Proof.Machine.execHdr s
  | .side => Sys2Proof.Machine.execSide s
  | .resv => Sys2Proof.Machine.execResv s
  | .scf gr ch => Sys2Proof.Machine.execScf gr ch s
  | .adv => Sys2Proof.Machine.execAdv s
  | .hufpair gr ch tbl => Sys2Proof.Machine.execHufpair gr ch tbl s
  | .hufquad gr ch sel => Sys2Proof.Machine.execHufquad gr ch sel s
  | .spec gr ch => Sys2Proof.Machine.execSpec gr ch s
  | .acinit dir => Sys2Proof.Machine.execAcinit dir s
  | .acencb y => Sys2Proof.Machine.execAcencb y s
  | .acdecb => Sys2Proof.Machine.execAcdecb s
  | .acflush => Sys2Proof.Machine.execAcflush s
  | .acenc => Sys2Proof.Machine.execAcenc s
  | .acdec => Sys2Proof.Machine.execAcdec s
  | .ser => Sys2Proof.Machine.execSer s
  | .emit => Sys2Proof.Machine.execEmit s
  | .frame => Sys2Proof.Machine.execFrame s
  | .run => Sys2Proof.Machine.execRun s

end Sys2Proof.Machine
end

