-- ==== Sys2Proof/Machine/Registers.lean ====
section
/-! DEFINITION. The host's access to registers and memories between commands: the register map of
10_state.md R60, `RegRead` and `RegWrite` (R21), `BufLoad`, `BufRead` and the memory reads
(20_memory.md R81). -/

namespace Sys2Proof.Machine

/-- The register number of `CMD` (10_state.md R23). -/
def cmdNumber : Nat := 0x00

/-- The header registers by number (10_state.md R37), zero-extended. -/
def Header.reg (h : Header) (n : Nat) : Nat :=
  match n with
  | 0x20 => h.hRaw.toNat
  | 0x21 => h.version.toNat
  | 0x22 => h.layer.toNat
  | 0x23 => h.crcPresent.toNat
  | 0x24 => h.brIdx.toNat
  | 0x25 => h.srIdx.toNat
  | 0x26 => h.bitrate.toNat
  | 0x27 => h.srate.toNat
  | 0x28 => h.padding.toNat
  | 0x29 => h.chmode.toNat
  | 0x2A => h.channels.toNat
  | 0x2B => h.modeExt.toNat
  | 0x2C => h.emphasis.toNat
  | 0x2D => h.frameSize.toNat
  | _ => 0

/-- The registers of one side-information block by offset (10_state.md R40), zero-extended. -/
def SideBlock.reg (g : SideBlock) (off : Nat) : Nat :=
  match off with
  | 0x00 => g.p23len.toNat
  | 0x01 => g.bigv.toNat
  | 0x02 => g.ggain.toNat
  | 0x03 => g.sfcomp.toNat
  | 0x04 => g.wsw.toNat
  | 0x05 => g.btype.toNat
  | 0x06 => g.mixed.toNat
  | 0x07 => g.tsel0.toNat
  | 0x08 => g.tsel1.toNat
  | 0x09 => g.tsel2.toNat
  | 0x0A => g.sbgain0.toNat
  | 0x0B => g.sbgain1.toNat
  | 0x0C => g.sbgain2.toNat
  | 0x0D => g.r0cnt.toNat
  | 0x0E => g.r1cnt.toNat
  | 0x0F => g.preflag.toNat
  | 0x10 => g.sfscale.toNat
  | 0x11 => g.c1sel.toNat
  | 0x12 => g.nzc.toNat
  | _ => 0

/-- The coder registers by number (10_state.md R44), zero-extended. -/
def Coder.reg (c : Coder) (n : Nat) : Nat :=
  match n with
  | 0x60 => c.low.toNat
  | 0x61 => c.high.toNat
  | 0x62 => c.xval.toNat
  | 0x63 => c.ctx.toNat
  | 0x64 => c.pos.toNat
  | 0x65 => c.cpos.toNat
  | _ => 0

/-- `RING[k]`; entries at index `≥ RING_CNT` read 0 (10_state.md R38). -/
def ringEntry (ring : List (BitVec 12)) (k : Nat) : BitVec 12 := ring.getD k 0

/-- The control registers 0x00 to 0x13 by number (10_state.md R23 to R36), zero-extended. `CMD` reads 0. -/
def State.controlReg (s : State) (n : Nat) : Nat :=
  match n with
  | 0x01 => s.status.toNat
  | 0x02 => s.err.toNat
  | 0x03 => s.lastErr.toNat
  | 0x04 => s.errInfo.toNat
  | 0x05 => s.cfgModel.toNat
  | 0x06 => s.cfgNreg.toNat
  | 0x07 => s.startOff.toNat
  | 0x08 => s.ibuf.len % 2 ^ 28
  | 0x09 => s.foff.toNat
  | 0x0A => s.cur.toNat
  | 0x0B => s.res.toNat
  | 0x0C => s.idx.toNat
  | 0x0D => s.p2start.toNat
  | 0x0E => s.mdbuf.len % 2 ^ 28
  | 0x0F => s.frames.toNat
  | 0x10 => s.skipped.toNat
  | 0x11 => s.plain.len % 2 ^ 28
  | 0x12 => s.code.len % 2 ^ 28
  | 0x13 => s.obuf.len % 2 ^ 28
  | _ => 0

/-- `RegRead(n)`: the register zero-extended to 32 bits, 0 for a number with no register (10_state.md
R21, R60). -/
def State.regRead (s : State) (n : Nat) : Word :=
  BitVec.ofNat 32 <|
    if n < 0x20 then s.controlReg n
    else if n < 0x30 then s.hdr.reg n
    else if n = 0x30 then s.ring.length % 2 ^ 4
    else if n ≤ 0x39 then (ringEntry s.ring (n - 0x31)).toNat
    else if n = 0x40 then s.mdb.toNat
    else if n = 0x41 then s.siPrivate.toNat
    else if n = 0x42 then s.scfsi.toNat
    else if n < 0x80 then s.ac.reg n
    else if n < 0xA0 then s.si.g0c0.reg (n - 0x80)
    else if n < 0xC0 then s.si.g0c1.reg (n - 0xA0)
    else if n < 0xE0 then s.si.g1c0.reg (n - 0xC0)
    else if n < 0x100 then s.si.g1c1.reg (n - 0xE0)
    else 0

/-- `CFG_NREG` after a write: 0 stores 1, above 32 stores 32 (10_state.md R28). -/
def clampNreg (v : Word) : BitVec 6 :=
  if v = 0 then 1 else if 32 < v.toNat then 32 else v.setWidth 6

/-- `RegWrite(n, v)` of a register other than `CMD`: a RW register stores `v` truncated (`CFG_NREG`
clamped), a write of `FOFF` also clears the valid bits (R31), every other write is ignored (R21). -/
def State.regWrite (s : State) (n : Nat) (v : Word) : State :=
  match n with
  | 0x05 => { s with cfgModel := v.setWidth 1 }
  | 0x06 => { s with cfgNreg := clampNreg v }
  | 0x07 => { s with startOff := v.setWidth 28 }
  | 0x09 => clearValid { s with foff := v.setWidth 28 }
  | 0x0A => { s with cur := v }
  | 0x0C => { s with idx := v.setWidth 10 }
  | 0x0D => { s with p2start := v }
  | _ => s

/-- `BufLoad(S, bytes)`: the whole buffer replaced; loading `IBUF` also clears the valid bits
(20_memory.md R81). -/
def State.bufLoad (s : State) (b : BufId) (bytes : List Byte) : State :=
  match b with
  | .ibuf => clearValid (s.setBuf .ibuf (Buffer.ofBytes bytes))
  | b => s.setBuf b (Buffer.ofBytes bytes)

/-- Whether a `BufLoad` keeps the host's duty of 20_memory.md R97. -/
def State.fits (s : State) (b : BufId) (bytes : List Byte) : Bool :=
  match s.cap b with
  | none => true
  | some c => decide (bytes.length ≤ c)

/-- The host's `BufLoad`, refused where it breaks its precondition (R97). -/
def hostLoad (b : BufId) (bytes : List Byte) (s : State) : Host.Outcome State Fault Refusal :=
  if s.fits b bytes then .next (s.bufLoad b bytes) else .refused .bufLoadOverCapacity

/-- `BufRead(S, a, n)`: bytes beyond the length read 0, no condition (R81). -/
def State.bufRead (s : State) (b : BufId) (a n : Nat) : List Word :=
  ((s.buf b).slice a n).map fun v => v.setWidth 32

/-- A memory element read by indices: 0 when an index is out of its declared range (R81). -/
def indexed {w : Nat} (ok : Bool) (m : Memory w) (a : Nat) : Word :=
  if ok then (Memory.read m a).setWidth 32 else 0

/-- `SAMP[gr][ch][i]`, the 16-bit pattern (R81, 10_state.md R43). -/
def State.sampRead (s : State) (gr ch i : Nat) : Word :=
  indexed (decide (gr < 2 ∧ ch < 2 ∧ i < 576)) s.samp ((2 * gr + ch) * 576 + i)

/-- `SCF_L[gr][ch][sfb]` (R81, 10_state.md R42). -/
def State.scfLRead (s : State) (gr ch sfb : Nat) : Word :=
  indexed (decide (gr < 2 ∧ ch < 2 ∧ sfb < 21)) s.scfL ((2 * gr + ch) * 21 + sfb)

/-- `SCF_S[gr][ch][win][sfb]` (R81, 10_state.md R42). -/
def State.scfSRead (s : State) (gr ch win sfb : Nat) : Word :=
  indexed (decide (gr < 2 ∧ ch < 2 ∧ win < 3 ∧ sfb < 13)) s.scfS ((2 * gr + ch) * 39 + win * 13 + sfb)

/-- `CNT[r][c][y]` (R81, 10_state.md R45). -/
def State.cntRead (s : State) (r c y : Nat) : Word :=
  indexed (decide (r < 32 ∧ c < 512 ∧ y < 2)) s.ac.cnt ((r * 512 + c) * 2 + y)

/-- A host read: nothing changes but what the host has been told (assumption log 16). -/
def tell (ws : List Word) (s : State) : Host.Outcome State Fault Refusal := .next { s with readout := ws }

end Sys2Proof.Machine
end

