-- ==== Sys2Proof/Machine/Fetch.lean ====
section
/-! DEFINITION. How a command word reaches the block: a write of `CMD` (10_state.md R23, 30_encoding.md
R110), and the host's other actions (10_state.md R21, 20_memory.md R81). -/

namespace Sys2Proof.Machine

/-- A word written to `CMD` (R110): the command it stands for, or `IllegalCommand`. -/
def issue (w : Word) (s : State) : Host.Outcome State Fault Refusal :=
  match decode w with
  | .ok i => exec i s
  | .error _ => .next (illegalCommand w (accept s))

/-- `RegWrite(n, v)` (R21, R23). -/
def hostWrite (n : Nat) (v : Word) (s : State) : Host.Outcome State Fault Refusal :=
  if n = cmdNumber then issue v s else .next (s.regWrite n v)

/-- One host action applied (R14, R92). -/
def perform (op : HostOp) (s : State) : Host.Outcome State Fault Refusal :=
  match op with
  | .regWrite n v => hostWrite n v s
  | .regRead n => tell [s.regRead n] s
  | .loadIbuf bytes => hostLoad .ibuf bytes s
  | .loadPlain bytes => hostLoad .plain bytes s
  | .loadCode bytes => hostLoad .code bytes s
  | .bufRead b a n => tell (s.bufRead b a n) s
  | .sampRead gr ch i => tell [s.sampRead gr ch i] s
  | .scfLRead gr ch sfb => tell [s.scfLRead gr ch sfb] s
  | .scfSRead gr ch win sfb => tell [s.scfSRead gr ch win sfb] s
  | .cntRead r c y => tell [s.cntRead r c y] s

/-- The host's pending actions with one more in front. -/
def State.pending (s : State) (op : HostOp) : State := { s with host := op :: s.host }

/-- The host's oldest pending action taken, or nothing when there is none: "nothing changes and nothing
wakes it but the next `CMD` write" (60_exceptions.md R380). -/
def takeAction (s : State) : Host.Outcome State Fault Refusal :=
  match s.host with
  | [] => .next s
  | op :: rest => perform op { s with host := rest }

end Sys2Proof.Machine
end

