-- ==== Sys2Proof/Machine/Step.lean ====
section
/-! DEFINITION. One step of the machine: the host's next action, applied to completion (00_scope.md R14,
20_memory.md R92). -/

namespace Sys2Proof.Machine

/-- One step. -/
def step (s : State) : Host.Outcome State Fault Refusal := takeAction s

/-- The state whose next step runs the given command word: a write of it to `CMD` put in front of the
host's pending actions (assumption log 1). -/
def State.withFetchWord (s : State) (nbits w : Nat) : State :=
  s.pending (.regWrite cmdNumber (BitVec.ofNat 32 (w % 2 ^ nbits)))

end Sys2Proof.Machine
end

