-- ==== Sys2Proof/Safety.lean ====
section
/-! DEFINITION. What claims about the machine are stated in: the invariants of a state, the
preconditions the spec puts on the host, and the parts of a state. -/

namespace Sys2Proof.Machine

/-- Every memory and buffer has its canonical form and its declared size (10_state.md R42, R43, R45;
20_memory.md R80, R88). `CTX` and `CFG_NREG` index the count memory, so their ranges (R28, R44) belong to
it. -/
structure State.MemWf (s : State) : Prop where
  ibuf : s.ibuf.wf = true
  mdbuf : s.mdbuf.wf = true
  plain : s.plain.wf = true
  code : s.code.wf = true
  obuf : s.obuf.wf = true
  scfL : Memory.wf (2 * 2 * 21) s.scfL = true
  scfS : Memory.wf (2 * 2 * 3 * 13) s.scfS = true
  samp : Memory.wf (2 * 2 * 576) s.samp = true
  cnt : Memory.wf (32 * 512 * 2) s.ac.cnt = true
  ctx : s.ac.ctx.toNat ≤ 511
  nreg : 1 ≤ s.cfgNreg.toNat ∧ s.cfgNreg.toNat ≤ 32

/-- `MDBUF` within `MD_CAP = 2048` (20_memory.md R82, 00_scope.md R6), and what bounds the bytes `RESV`
copies: a supported header's `FRAME_SIZE` is at most 1441 (41_frame_parser.md R185), and side information is
valid only for a supported frame. -/
structure State.MdbufFits (s : State) : Prop where
  len : s.mdbuf.len ≤ 2048
  size : s.hValid = true → s.hdr.version = 3 → s.hdr.layer = 3 → s.hdr.frameSize.toNat ≤ 1441
  side : s.siValid = true → s.hValid = true ∧ s.hdr.version = 3 ∧ s.hdr.layer = 3

/-- "`MD_VALID = 1` implies `SI_VALID = 1` implies `H_VALID = 1`" (41_frame_parser.md R180). -/
structure State.ValidChain (s : State) : Prop where
  md : s.mdValid = true → s.siValid = true
  si : s.siValid = true → s.hValid = true

/-- The coder between decisions (44_arithmetic_coder.md R292, 10_state.md R44, R45): the interval is not
empty and its bounds differ in the top byte, `XVAL` lies in it while decoding, the context is a leading 1
and up to 8 bits, no count exceeds the ceiling; `CFG_NREG` is legal (R28) and the counts are those of 32
regions of 512 contexts. R292's clause on `CPOS` is `State.CposOk`: it alone needs a bound on `CODE`. -/
structure State.CoderOk (s : State) : Prop where
  interval : s.ac.low.toNat ≤ s.ac.high.toNat
  topBytes : s.ac.low.extractLsb' 24 8 ≠ s.ac.high.extractLsb' 24 8
  xval : s.acMode = .decoding →
    s.ac.low.toNat ≤ s.ac.xval.toNat ∧ s.ac.xval.toNat ≤ s.ac.high.toNat
  ctx : 1 ≤ s.ac.ctx.toNat ∧ s.ac.ctx.toNat ≤ 511
  counts : ∀ a, (Memory.read s.ac.cnt a).toNat ≤ 65534
  nreg : 1 ≤ s.cfgNreg.toNat ∧ s.cfgNreg.toNat ≤ 32
  cntWf : Memory.wf (32 * 512 * 2) s.ac.cnt = true

/-- "`CPOS ≥ 4` after `ACINIT dir=1`" (44_arithmetic_coder.md R292): while decoding. -/
def State.CposOk (s : State) : Prop := s.acMode = .decoding → 4 ≤ s.ac.cpos.toNat

/-- Registers that never leave their legal values: `CFG_NREG` 1 to 32 (10_state.md R28), `ERR` bit 0
always 0 (R25), `LASTERR` a condition code (60_exceptions.md R352), at most 9 sizes in the history (R38),
every `NZC` at most 576 (R40), and `SCF_S[*][*][*][12]` is 0 (R42: "always"). -/
structure State.RegsLegal (s : State) : Prop where
  nreg : 1 ≤ s.cfgNreg.toNat ∧ s.cfgNreg.toNat ≤ 32
  err0 : s.err.getLsbD 0 = false
  lastErr : s.lastErr.toNat ≤ 12
  ring : s.ring.length ≤ 9
  nzc : ∀ gr ch, (s.si.get gr ch).nzc.toNat ≤ 576
  scf12 : ∀ gr ch win, win < 3 → Memory.read s.scfS (scfSAddr gr ch win 12) = 0

/-- While a valid bit is 1 the registers it speaks of describe the frame at `FOFF` (10_state.md R24,
41_frame_parser.md R180): the header registers the header word there, the side-information registers, but
for `NZC`, the side information there. -/
structure State.DescribesFrame (s : State) : Prop where
  header : s.hValid = true → headerRejected s.headerWord = false ∧ s.hdr = parseHeader s.cfg s.headerWord
  side : s.siValid = true →
    s.mdb = siField s.ibuf s.sidePos 0 9 ∧
    s.scfsi = readScfsi s.ibuf s.sidePos s.channels ∧
    s.siPrivate = BitVec.ofNat 5 (s.ibuf.bits (s.sidePos + 9) (privateBits s.channels)) ∧
    ∀ gr ch, s.si.get gr ch = sideBlockOf s.ibuf s.sidePos s.channels gr ch (s.si.get gr ch)

/-- The host precondition under which no offset register wraps: `IN_LEN ≤ 2^28 - 2^12` (10_state.md R31,
00_scope.md R9). -/
def State.inputFits (s : State) : Prop := s.ibuf.len ≤ 2 ^ 28 - 2 ^ 12

/-- The bound under which `CPOS` does not wrap in one command: `CODE_LEN` and `CPOS` at most `2^28 - 2^12`.
R9 gives that bound for `IN_LEN` only; for `CODE` it is the model's (assumption log 21). -/
def State.codeFits (s : State) : Prop := s.code.len ≤ 2 ^ 28 - 2 ^ 12 ∧ s.ac.cpos.toNat ≤ 2 ^ 28 - 2 ^ 12

/-- The header tables give every accepted header a frame size of at least 1 byte: what `RUN`'s termination
needs of them (45_container_orchestrator.md R328: "`FRAME_SIZE ≥ 24`"). -/
def frameSizesPositive (c : Config) : Prop :=
  ∀ w : Word, headerRejected w = false →
    1 ≤ (parseHeader c w).frameSize.toNat ∧ (parseHeader c w).frameSize.toNat ≤ 2881

/-- No buffer the commands append to is bounded (20_memory.md R97: "a model may take them unbounded"). -/
def State.unbounded (s : State) : Prop :=
  s.cfg.plainCap = none ∧ s.cfg.codeCap = none ∧ s.cfg.obufCap = none

/-- Room for `n` more bytes in a buffer (20_memory.md R97). -/
def State.hasRoom (s : State) (b : BufId) (n : Nat) : Prop := ∀ c, s.cap b = some c → (s.buf b).len + n ≤ c

/-- Code words of which none begins another: "within one tree no code word is a prefix of another"
(42_spectrum_huffman.md R231). -/
def uniquelyDecodable (es : List CodeWord) : Prop :=
  ∀ (i j : Nat) (e f : CodeWord), es[i]? = some e → es[j]? = some f → i ≠ j → e.len ≤ f.len →
    f.code / 2 ^ (f.len - e.len) ≠ e.code

/-- Every stored sample within the range of R236. -/
def State.SamplesInRange (s : State) : Prop :=
  ∀ a, -8206 ≤ (Memory.read s.samp a).toInt ∧ (Memory.read s.samp a).toInt ≤ 8206

/-- The parts of a state, one for each field: what a frame statement names. -/
inductive Part where
  | done
  | hValid
  | siValid
  | mdValid
  | acMode
  | err
  | lastErr
  | errInfo
  | cfgModel
  | cfgNreg
  | startOff
  | foff
  | cur
  | res
  | idx
  | p2start
  | frames
  | skipped
  | hdr
  | ring
  | mdb
  | siPrivate
  | scfsi
  | si
  | scfL
  | scfS
  | samp
  | ac
  | ibuf
  | mdbuf
  | plain
  | code
  | obuf
  | cfg
  | host
  | readout
deriving DecidableEq, Repr

/-- Two memories that read the same at every address. -/
def sameReads {w : Nat} (m m' : Memory w) : Prop := ∀ a, Memory.read m' a = Memory.read m a

/-- Two buffers of one length that read the same at every address. -/
def sameBytes (b b' : Buffer) : Prop := b'.len = b.len ∧ ∀ a, b'.read a = b.read a

/-- A part is the same in the second state as in the first: a register by its value, a memory by what is
read from it at every address. -/
def Part.same : Part → State → State → Prop
  | .done, s, t => t.done = s.done
  | .hValid, s, t => t.hValid = s.hValid
  | .siValid, s, t => t.siValid = s.siValid
  | .mdValid, s, t => t.mdValid = s.mdValid
  | .acMode, s, t => t.acMode = s.acMode
  | .err, s, t => t.err = s.err
  | .lastErr, s, t => t.lastErr = s.lastErr
  | .errInfo, s, t => t.errInfo = s.errInfo
  | .cfgModel, s, t => t.cfgModel = s.cfgModel
  | .cfgNreg, s, t => t.cfgNreg = s.cfgNreg
  | .startOff, s, t => t.startOff = s.startOff
  | .foff, s, t => t.foff = s.foff
  | .cur, s, t => t.cur = s.cur
  | .res, s, t => t.res = s.res
  | .idx, s, t => t.idx = s.idx
  | .p2start, s, t => t.p2start = s.p2start
  | .frames, s, t => t.frames = s.frames
  | .skipped, s, t => t.skipped = s.skipped
  | .hdr, s, t => t.hdr = s.hdr
  | .ring, s, t => t.ring = s.ring
  | .mdb, s, t => t.mdb = s.mdb
  | .siPrivate, s, t => t.siPrivate = s.siPrivate
  | .scfsi, s, t => t.scfsi = s.scfsi
  | .si, s, t => t.si = s.si
  | .scfL, s, t => sameReads s.scfL t.scfL
  | .scfS, s, t => sameReads s.scfS t.scfS
  | .samp, s, t => sameReads s.samp t.samp
  | .ac, s, t => t.ac = s.ac
  | .ibuf, s, t => sameBytes s.ibuf t.ibuf
  | .mdbuf, s, t => sameBytes s.mdbuf t.mdbuf
  | .plain, s, t => sameBytes s.plain t.plain
  | .code, s, t => sameBytes s.code t.code
  | .obuf, s, t => sameBytes s.obuf t.obuf
  | .cfg, s, t => t.cfg = s.cfg
  | .host, s, t => t.host = s.host
  | .readout, s, t => t.readout = s.readout

/-- Every part that the list does not name is the same. -/
def unchangedBut (changed : List Part) (s t : State) : Prop := ∀ p, p ∉ changed → p.same s t

/-- The three valid bits (10_state.md R24). -/
def Part.valid : List Part := [.hValid, .siValid, .mdValid]

/-- The parts the acceptance of a command and the conditions it raises write (30_encoding.md R110,
60_exceptions.md R351). -/
def Part.errors : List Part := [.err, .lastErr, .errInfo]

/-- The parts that one frame's way through `FRAME` writes (45_container_orchestrator.md R326 and the
"Writes" of its sub-steps). -/
def Part.ofFrame : List Part :=
  Part.errors ++ Part.valid ++
    [.done, .hdr, .mdb, .siPrivate, .scfsi, .si, .scfL, .scfS, .samp, .mdbuf, .cur, .p2start, .idx, .plain,
     .code, .ac, .acMode, .obuf, .frames, .foff, .skipped, .ring]

/-- The parts a command may change: the "Writes" line of its rule, and the error registers. -/
def writes : Instr → List Part
  | .nop => [.lastErr, .errInfo]
  | .srst =>
    Part.ofFrame ++ [.res]
  | .clrerr => Part.errors
  | .sinit => [.lastErr, .errInfo, .obuf, .frames, .skipped, .ring, .foff, .done] ++ Part.valid
  | .rdbits _ adv _ => Part.errors ++ (if adv then [.res, .cur] else [.res])
  | .hdr => Part.errors ++ Part.valid ++ [.hdr]
  | .side => Part.errors ++ [.mdb, .siPrivate, .scfsi, .si, .siValid, .mdValid]
  | .resv => Part.errors ++ [.mdbuf, .mdValid, .cur]
  | .scf _ _ => Part.errors ++ [.p2start, .cur, .scfL, .scfS]
  | .adv => Part.errors ++ Part.valid ++ [.ring, .foff]
  | .hufpair _ _ _ | .hufquad _ _ _ => Part.errors ++ [.samp, .idx, .cur]
  | .spec _ _ => Part.errors ++ [.samp, .idx, .si, .cur]
  | .acinit .encode => [.lastErr, .errInfo, .ac, .acMode, .code]
  | .acinit .decode => [.lastErr, .errInfo, .ac, .acMode, .plain]
  | .acencb _ => Part.errors ++ [.ac, .code]
  | .acdecb => Part.errors ++ [.ac, .res]
  | .acflush => Part.errors ++ [.code, .acMode]
  | .acenc => Part.errors ++ [.ac, .code, .acMode]
  | .acdec => Part.errors ++ [.ac, .plain, .res, .acMode]
  | .ser => Part.errors ++ [.plain]
  | .emit => Part.errors ++ [.plain, .code, .ac, .acMode, .obuf, .frames]
  | .frame | .run => Part.ofFrame

/-- A run of `n` steps meets no fault and no refusal. -/
def runsSafely : Nat → State → Prop
  | 0, _ => True
  | n + 1, s => ∃ t, step s = .next t ∧ runsSafely n t

end Sys2Proof.Machine
end

