-- ==== Sys2Proof/Reference.lean ====
section
/-! DEFINITION. The pseudocode of the rules written out line by line, for statements that compare the
machine's meanings with it: bits are read one at a time, loops run as the rule's loops do, and every missing
bit is raised where it is met. Nothing of the machine uses this file. -/

namespace Sys2Proof.Reference

open Sys2Proof.Machine

/-- One row of the opcode map: the pattern and the mask of the row's format (30_encoding.md R111, R112). -/
structure OpcodeRow where
  pattern : Word
  mask : Word
deriving DecidableEq, Repr

/-- The opcode map (30_encoding.md R112) with the masks of R111. -/
def opcodeRows : List OpcodeRow :=
  [⟨0x00000000, 0xFFFFFFFF⟩, ⟨0x01000000, 0xFFFFFFFF⟩, ⟨0x02000000, 0xFFFFFFFF⟩,
   ⟨0x03000000, 0xFFFFFFFF⟩, ⟨0x10000000, 0xFF0FFFC0⟩] ++
  [⟨0x20000000, 0xFFFFFFFF⟩, ⟨0x21000000, 0xFFFFFFFF⟩, ⟨0x22000000, 0xFFFFFFFF⟩,
   ⟨0x23000000, 0xFFFFFFFC⟩, ⟨0x24000000, 0xFFFFFFFF⟩] ++
  [⟨0x30000000, 0xFFFFFF80⟩, ⟨0x31000000, 0xFFFFFFF8⟩, ⟨0x32000000, 0xFFFFFFFC⟩] ++
  [⟨0x40000000, 0xFFFFFFFE⟩, ⟨0x41000000, 0xFFFFFFFE⟩, ⟨0x42000000, 0xFFFFFFFF⟩,
   ⟨0x43000000, 0xFFFFFFFF⟩, ⟨0x44000000, 0xFFFFFFFF⟩, ⟨0x45000000, 0xFFFFFFFF⟩] ++
  [⟨0x50000000, 0xFFFFFFFF⟩, ⟨0x51000000, 0xFFFFFFFF⟩, ⟨0x52000000, 0xFFFFFFFF⟩,
   ⟨0x53000000, 0xFFFFFFFF⟩]

/-- A word matches a row (R111). -/
def OpcodeRow.fits (r : OpcodeRow) (w : Word) : Bool := w &&& r.mask == r.pattern

/-- A legal word of some command (30_encoding.md R113): it matches a row, and if it is `RDBITS` its `buf`
is at most 4 and its `len` at most 32. -/
def legalWord (w : Word) : Prop :=
  (∃ r ∈ opcodeRows, r.fits w = true) ∧
    (w.extractLsb' 24 8 = 0x10 → w.extractLsb' 21 3 ≤ 4 ∧ w.extractLsb' 0 6 ≤ 32)

/-- What the acceptance of a command word does first: "`LASTERR <- 0 ; ERRINFO <- 0`" (30_encoding.md
R110). -/
def accepted (s : State) : State := { s with lastErr := 0, errInfo := 0 }

/-- The preconditions of 60_exceptions.md R360: "every command not listed has none". -/
def precondition : Instr → State → Prop
  | .side, s => s.hValid = true ∧ s.hdr.version = 3 ∧ s.hdr.layer = 3
  | .resv, s => s.siValid = true
  | .scf _ ch, s | .spec _ ch, s => s.mdValid = true ∧ ch.val < s.hdr.channels.toNat
  | .hufpair _ ch _, s =>
    s.mdValid = true ∧ ch.val < s.hdr.channels.toNat ∧ s.idx.toNat + 2 ≤ 576
  | .hufquad _ ch _, s =>
    s.mdValid = true ∧ ch.val < s.hdr.channels.toNat ∧ s.idx.toNat + 4 ≤ 576
  | .adv, s | .ser, s => s.hValid = true
  | .emit, s => s.hValid = true ∧ s.siValid = true
  | .acencb _, s | .acflush, s => s.acMode = .encoding
  | .acdecb, s => s.acMode = .decoding
  | .nop, _ | .srst, _ | .clrerr, _ | .sinit, _ | .rdbits _ _ _, _ | .hdr, _ => True
  | .acinit _, _ | .acenc, _ | .acdec, _ | .frame, _ | .run, _ => True

/-! ## The register map (10_state.md R60) -/

/-- The registers 0x00 to 0x13 by number (R23 to R36); a length register has 28 bits (R30, assumption
log 6). -/
def controlMap (s : State) : List (Nat × Nat) :=
  [(0x00, 0), (0x01, s.status.toNat), (0x02, s.err.toNat), (0x03, s.lastErr.toNat), (0x04, s.errInfo.toNat)] ++
  [(0x05, s.cfgModel.toNat), (0x06, s.cfgNreg.toNat), (0x07, s.startOff.toNat), (0x08, s.ibuf.len % 2 ^ 28)] ++
  [(0x09, s.foff.toNat), (0x0A, s.cur.toNat), (0x0B, s.res.toNat), (0x0C, s.idx.toNat)] ++
  [(0x0D, s.p2start.toNat), (0x0E, s.mdbuf.len % 2 ^ 28), (0x0F, s.frames.toNat), (0x10, s.skipped.toNat)] ++
  [(0x11, s.plain.len % 2 ^ 28), (0x12, s.code.len % 2 ^ 28), (0x13, s.obuf.len % 2 ^ 28)]

/-- The header registers by number (R37). -/
def headerMap (h : Header) : List (Nat × Nat) :=
  [(0x20, h.hRaw.toNat), (0x21, h.version.toNat), (0x22, h.layer.toNat), (0x23, h.crcPresent.toNat)] ++
  [(0x24, h.brIdx.toNat), (0x25, h.srIdx.toNat), (0x26, h.bitrate.toNat), (0x27, h.srate.toNat)] ++
  [(0x28, h.padding.toNat), (0x29, h.chmode.toNat), (0x2A, h.channels.toNat), (0x2B, h.modeExt.toNat)] ++
  [(0x2C, h.emphasis.toNat), (0x2D, h.frameSize.toNat)]

/-- `RING_CNT` and `RING[0]` to `RING[8]`; an entry at or beyond `RING_CNT` reads 0 (R38). -/
def ringMap (ring : List (BitVec 12)) : List (Nat × Nat) :=
  (0x30, ring.length % 2 ^ 4) :: (List.range 9).map fun k =>
    (0x31 + k, if k < ring.length then (ring.getD k 0).toNat else 0)

/-- The coder registers by number (R44). -/
def coderMap (c : Coder) : List (Nat × Nat) :=
  [(0x60, c.low.toNat), (0x61, c.high.toNat), (0x62, c.xval.toNat), (0x63, c.ctx.toNat)] ++
  [(0x64, c.pos.toNat), (0x65, c.cpos.toNat)]

/-- The registers of one side-information block in the order of their offsets 0x00 to 0x12 (R40). -/
def blockFields (g : SideBlock) : List Nat :=
  [g.p23len.toNat, g.bigv.toNat, g.ggain.toNat, g.sfcomp.toNat, g.wsw.toNat, g.btype.toNat] ++
  [g.mixed.toNat, g.tsel0.toNat, g.tsel1.toNat, g.tsel2.toNat, g.sbgain0.toNat, g.sbgain1.toNat] ++
  [g.sbgain2.toNat, g.r0cnt.toNat, g.r1cnt.toNat, g.preflag.toNat, g.sfscale.toNat, g.c1sel.toNat] ++
  [g.nzc.toNat]

/-- The block of (gr, ch) at base `0x80 + 0x20 · (2·gr + ch)` (R40). -/
def blockMap (gr ch : Fin 2) (s : State) : List (Nat × Nat) :=
  (blockFields (s.si.get gr ch)).zipIdx.map fun p => (0x80 + 0x20 * (2 * gr.val + ch.val) + p.2, p.1)

/-- The complete register map: every register's number and what it holds (R60). -/
def registerMap (s : State) : List (Nat × Nat) :=
  controlMap s ++ headerMap s.hdr ++ ringMap s.ring ++
    [(0x40, s.mdb.toNat), (0x41, s.siPrivate.toNat), (0x42, s.scfsi.toNat)] ++ coderMap s.ac ++
    blockMap 0 0 s ++ blockMap 0 1 s ++ blockMap 1 0 s ++ blockMap 1 1 s

/-! ## Appends and loops -/

/-- `Append(S, v)` (00_scope.md R10), which stops the command where the buffer has no room
(60_exceptions.md R362). -/
def append (b : BufId) (v : Byte) (s : State) : Flow :=
  match s.cap b with
  | none => .go (s.setBuf b ((s.buf b).append v))
  | some c =>
    if (s.buf b).len < c then .go (s.setBuf b ((s.buf b).append v))
    else .halt (raise .capacityFault b.id s)

/-- Appends one after another. -/
def appends (b : BufId) : List Byte → State → Flow
  | [], s => .go s
  | v :: vs, s => (append b v s).bind (appends b vs)

/-- One turn of a loop: another turn follows, or the loop is left, or a `CapacityFault` stopped the command
inside it (R362). -/
inductive Turn where
  | again (s : State)
  | leave (s : State)
  | stop (s : State)
deriving DecidableEq, Repr

/-- At most `n` turns of a loop. -/
def loop (turn : State → Turn) : Nat → State → Turn
  | 0, s => .again s
  | n + 1, s =>
    match turn s with
    | .again s => loop turn n s
    | .leave s => .leave s
    | .stop s => .stop s

/-- The loop, started in `s`, ends, and `t` is the state after the lines that follow it, or the state where
the command stopped inside it. -/
def loopGives (turn : State → Turn) (finish : State → State) (s t : State) : Prop :=
  ∃ n, (∃ u, loop turn n s = .leave u ∧ t = finish u) ∨ loop turn n s = .stop t

/-! ## The bit reader (40_control_and_bitreader.md R164) -/

/-- The loop of `ReadBits(S, off, n)` from its `i`-th bit on, `n` bits to go, `v` read so far. -/
def readBitsFrom (b : BufId) (off : Nat) : Nat → Nat → Nat → State → Nat × State
  | 0, _, v, s => (v, s)
  | n + 1, i, v, s =>
    let a := (off + i) / 8
    if a < (s.buf b).len then
      let bit := ((s.buf b).read a).toNat / 2 ^ (7 - (off + i) % 8) % 2
      readBitsFrom b off n (i + 1) (2 * v + bit) s
    else readBitsFrom b off n (i + 1) (2 * v) (raise .truncatedInput (off + i) s)

/-- `ReadBits(S, off, n)` (R164). -/
def readBits (b : BufId) (off n : Nat) (s : State) : Nat × State := readBitsFrom b off n 0 0 s

/-- `Take(S, n)`: "`ReadBits(S, CUR, n)` followed by `CUR <- CUR + n`" (00_scope.md R10). -/
def take (b : BufId) (n : Nat) (s : State) : Nat × State :=
  let r := readBits b s.cur.toNat n s
  (r.1, { r.2 with cur := r.2.cur + BitVec.ofNat 32 n })

/-- The buffer as one big binary numeral of `8 · Len(S)` bits (R164). -/
def numeral (b : Buffer) : Nat := b.bytes.foldl (fun n v => n * 256 + v.toNat) 0

/-- `RDBITS buf, adv, len` (R165). -/
def rdbits (b : BufId) (adv : Bool) (len : Nat) (s : State) : State :=
  let r := readBits b s.cur.toNat len s
  let s := { r.2 with res := BitVec.ofNat 32 r.1 }
  if adv then { s with cur := s.cur + BitVec.ofNat 32 len } else s

/-! ## The frame parser (41_frame_parser.md) -/

/-- `HDR` (R182). -/
def hdr (s : State) : State :=
  let s := { s with hValid := false, siValid := false, mdValid := false }
  let r := readBits .ibuf (8 * s.foff.toNat) 32 s
  let w : Word := BitVec.ofNat 32 r.1
  let s := { r.2 with hdr := { r.2.hdr with hRaw := w } }
  if w.extractLsb' 21 11 ≠ 0x7FF then raise .invalidFrame s.foff.toNat s
  else
    let ver := w.extractLsb' 19 2
    let lay := w.extractLsb' 17 2
    let bri := w.extractLsb' 12 4
    let sri := w.extractLsb' 10 2
    if ver = 1 ∨ lay = 0 ∨ bri = 0 ∨ bri = 15 ∨ sri = 3 then raise .invalidFrame s.foff.toNat s
    else
      let layer := 4 - lay.toNat
      let bitrate : BitVec 19 := BitVec.ofNat 19 (1000 * s.cfg.bitrate ver.toNat layer bri.toNat)
      let srate : BitVec 16 := BitVec.ofNat 16 (s.cfg.srate ver.toNat sri.toNat)
      let padding := w.extractLsb' 9 1
      { s with
        hValid := true
        hdr :=
          { hRaw := w
            version := ver
            layer := BitVec.ofNat 2 layer
            crcPresent := BitVec.ofNat 1 (1 - (w.extractLsb' 16 1).toNat)
            brIdx := bri
            srIdx := sri
            bitrate := bitrate
            srate := srate
            padding := padding
            chmode := w.extractLsb' 6 2
            channels := if w.extractLsb' 6 2 = 3 then 1 else 2
            modeExt := w.extractLsb' 4 2
            emphasis := w.extractLsb' 0 2
            frameSize := BitVec.ofNat 12
              (s.cfg.spf ver.toNat layer / 8 * bitrate.toNat / srate.toNat + padding.toNat) } }

/-- A sequential read of `IBUF` with a local bit position `pos` (R190). -/
abbrev Reader := StateM (Nat × State)

/-- `r(n)` of R190. -/
def r (n : Nat) : Reader Nat := fun p =>
  let v := readBits .ibuf p.1 n p.2
  (v.1, (p.1 + n, v.2))

/-- `n` one-bit reads in order; the value has the first bit read as its bit 0 (R190, `SCFSI`). -/
def flags : Nat → Reader Nat
  | 0 => pure 0
  | n + 1 => do
    let low ← flags n
    let bit ← r 1
    pure (low + bit * 2 ^ n)

/-- One block of R190, `NZC` kept. -/
def sideBlock (nzc : BitVec 10) : Reader SideBlock := do
  let p23len ← r 12
  let bigv ← r 9
  let ggain ← r 8
  let sfcomp ← r 4
  let wsw ← r 1
  let g : SideBlock :=
    { SideBlock.reset with
      p23len := BitVec.ofNat 12 p23len
      bigv := BitVec.ofNat 9 bigv
      ggain := BitVec.ofNat 8 ggain
      sfcomp := BitVec.ofNat 4 sfcomp
      wsw := BitVec.ofNat 1 wsw
      nzc := nzc }
  let g ←
    if wsw = 1 then do
      let btype ← r 2
      let mixed ← r 1
      let tsel0 ← r 5
      let tsel1 ← r 5
      let sbgain0 ← r 3
      let sbgain1 ← r 3
      let sbgain2 ← r 3
      pure
        { g with
          btype := BitVec.ofNat 2 btype
          mixed := BitVec.ofNat 1 mixed
          tsel0 := BitVec.ofNat 5 tsel0
          tsel1 := BitVec.ofNat 5 tsel1
          sbgain0 := BitVec.ofNat 3 sbgain0
          sbgain1 := BitVec.ofNat 3 sbgain1
          sbgain2 := BitVec.ofNat 3 sbgain2 }
    else do
      let tsel0 ← r 5
      let tsel1 ← r 5
      let tsel2 ← r 5
      let r0cnt ← r 4
      let r1cnt ← r 3
      pure
        { g with
          tsel0 := BitVec.ofNat 5 tsel0
          tsel1 := BitVec.ofNat 5 tsel1
          tsel2 := BitVec.ofNat 5 tsel2
          r0cnt := BitVec.ofNat 4 r0cnt
          r1cnt := BitVec.ofNat 3 r1cnt }
  let preflag ← r 1
  let sfscale ← r 1
  let c1sel ← r 1
  pure
    { g with
      preflag := BitVec.ofNat 1 preflag
      sfscale := BitVec.ofNat 1 sfscale
      c1sel := BitVec.ofNat 1 c1sel }

/-- The block of a channel: read if the channel exists, else all 0 but `NZC` (R190). -/
def sideBlockIf (present : Bool) (nzc : BitVec 10) : Reader SideBlock :=
  if present then sideBlock nzc else pure { SideBlock.reset with nzc := nzc }

/-- What `SIDE` reads (R190). -/
structure SideFields where
  mdb : Nat
  priv : Nat
  scfsi : Nat
  si : SideBlocks

/-- The reads of `SIDE` in order (R190), for a frame of one channel or of two; `old` holds the `NZC`s. -/
def sideFields (two : Bool) (old : SideBlocks) : Reader SideFields := do
  let mdb ← r 9
  let priv ← r (if two then 3 else 5)
  let scfsi ← flags (if two then 8 else 4)
  let g0c0 ← sideBlockIf true old.g0c0.nzc
  let g0c1 ← sideBlockIf two old.g0c1.nzc
  let g1c0 ← sideBlockIf true old.g1c0.nzc
  let g1c1 ← sideBlockIf two old.g1c1.nzc
  pure { mdb := mdb, priv := priv, scfsi := scfsi, si := ⟨g0c0, g0c1, g1c0, g1c1⟩ }

/-- `SIDE` (R190) for a frame of one or two channels. -/
def side (s : State) : State :=
  let pos := 8 * (s.foff.toNat + 4 + 2 * s.hdr.crcPresent.toNat)
  let f := sideFields (s.hdr.channels == 2) s.si (pos, s)
  { f.2.2 with
    mdb := BitVec.ofNat 9 f.1.mdb
    siPrivate := BitVec.ofNat 5 f.1.priv
    scfsi := BitVec.ofNat 8 f.1.scfsi
    si := f.1.si
    siValid := true
    mdValid := false }

/-- `Copy(a, b)` of R199 for the `n = b - a` bytes from `a` on. -/
def copy : Nat → Nat → State → List Byte × State
  | 0, _, s => ([], s)
  | n + 1, a, s =>
    let s := if a < s.ibuf.len then s else raise .truncatedInput (8 * a) s
    let rest := copy n (a + 1) s
    (s.ibuf.read a :: rest.1, rest.2)

/-- Several copies concatenated in list order (R199). -/
def copies : List (Nat × Nat) → State → List Byte × State
  | [], s => ([], s)
  | p :: parts, s =>
    let c := copy (p.2 - p.1) p.1 s
    let rest := copies parts c.2
    (c.1 ++ rest.1, rest.2)

/-- The `while acc < MDB` loop of R199 with `fuel` turns left: `none` on ReservoirInconsistency. -/
def resvLoop (mdb p : Nat) (ring : List (BitVec 12)) :
    Nat → Nat → Nat → Nat → List (Nat × Nat) → Option (Nat × List (Nat × Nat))
  | 0, _, _, _, _ => none
  | fuel + 1, k, acc, start, parts =>
    if acc < mdb then
      if k = ring.length ∨ start < (ring.getD k 0).toNat then none
      else
        let size := (ring.getD k 0).toNat
        let start := start - size
        resvLoop mdb p ring fuel (k + 1) (acc + max (size - p) 0) start
          ([(start + p, start + max size p)] ++ parts)
    else some (acc, parts)

/-- `RESV` (R199). -/
def resv (s : State) : State :=
  let p := s.prefixLen
  let foff := s.foff.toNat
  let own := copy (foff + s.hdr.frameSize.toNat - (foff + p)) (foff + p) s
  let s := { own.2 with mdbuf := Buffer.empty }
  if s.mdb = 0 then { s with mdbuf := Buffer.ofBytes own.1, mdValid := true, cur := 0 }
  else
    match resvLoop s.mdb.toNat p s.ring (s.ring.length + 1) 0 0 foff [] with
    | none => { raise .reservoirInconsistency foff s with mdValid := false, cur := 0 }
    | some (acc, parts) =>
      let w := copies parts s
      { w.2 with
        mdbuf := Buffer.ofBytes (w.1.drop (acc - s.mdb.toNat) ++ own.1)
        mdValid := true
        cur := 0 }

/-- `L[sfb] <- v` (R206): the local image stands in the entry's own place, zeroed first. -/
def setL (gr ch : Fin 2) (sfb : Nat) (v : BitVec 4) (s : State) : State :=
  { s with scfL := Memory.write s.scfL (scfLAddr gr ch sfb) v }

/-- `S[win][sfb] <- v` (R206). -/
def setS (gr ch : Fin 2) (win sfb : Nat) (v : BitVec 4) (s : State) : State :=
  { s with scfS := Memory.write s.scfS (scfSAddr gr ch win sfb) v }

/-- `L[sfb] <- rd(n)` (R207, R209). -/
def readL (gr ch : Fin 2) (n sfb : Nat) (s : State) : State :=
  let t := take .mdbuf n s
  setL gr ch sfb (BitVec.ofNat 4 t.1) t.2

/-- `S[win][sfb] <- rd(n)` (R208, R209). -/
def readS (gr ch : Fin 2) (n sfb win : Nat) (s : State) : State :=
  let t := take .mdbuf n s
  setS gr ch win sfb (BitVec.ofNat 4 t.1) t.2

/-- One long band of the long-window layout: shared by `scfsi` in granule 1, else read (R207). -/
def longBand (gr ch : Fin 2) (slen1 slen2 sfb : Nat) (s : State) : State :=
  let b := if sfb < 6 then 0 else if sfb < 11 then 1 else if sfb < 16 then 2 else 3
  if gr = 1 ∧ s.scfsi.getLsbD (4 * ch.val + b) = true then
    setL gr ch sfb (Memory.read s.scfL (scfLAddr 0 ch sfb)) s
  else readL gr ch (if sfb < 11 then slen1 else slen2) sfb s

/-- Short bands with `n` bits each, window after window (R208, R209). -/
def shortBands (gr ch : Fin 2) (n : Nat) (bands : List Nat) (s : State) : State :=
  bands.foldl (fun s sfb => [0, 1, 2].foldl (fun s win => readS gr ch n sfb win s) s) s

/-- `SCF gr, ch` (R206 to R209). -/
def scf (gr ch : Fin 2) (s : State) : State :=
  let g := s.si.get gr ch
  let slen1 := (s.cfg.slen g.sfcomp.toNat).1
  let slen2 := (s.cfg.slen g.sfcomp.toNat).2
  let s :=
    { s with
      p2start := s.cur
      scfL := Memory.clear s.scfL (scfLBase gr ch) (scfLBase gr ch + 21)
      scfS := Memory.clear s.scfS (scfSBase gr ch) (scfSBase gr ch + 39) }
  if g.wsw = 1 ∧ g.btype = 2 then
    if g.mixed = 1 then
      let s := (List.range 8).foldl (fun s sfb => readL gr ch slen1 sfb s) s
      shortBands gr ch slen2 [6, 7, 8, 9, 10, 11] (shortBands gr ch slen1 [3, 4, 5] s)
    else shortBands gr ch slen2 [6, 7, 8, 9, 10, 11] (shortBands gr ch slen1 [0, 1, 2, 3, 4, 5] s)
  else (List.range 21).foldl (fun s sfb => longBand gr ch slen1 slen2 sfb s) s

/-- `ADV` (R216). -/
def adv (s : State) : State :=
  { s with
    ring := (s.hdr.frameSize :: s.ring).take 9
    foff := s.foff + s.hdr.frameSize.setWidth 28
    hValid := false
    siValid := false
    mdValid := false }

/-! ## Scale factors in closed form (R207 to R209)

Bit offsets of each field from `P2START`, worked out from the order of the layouts. -/

/-- The error registers of `t` are those of the accepted `s` with a TruncatedInput at the given bit, if there
is one (20_memory.md R84). -/
def notesMissing (m : Option Nat) (s t : State) : Prop :=
  t.err = (noteMissing m (accepted s)).err ∧ t.lastErr = (noteMissing m (accepted s)).lastErr ∧
    t.errInfo = (noteMissing m (accepted s)).errInfo

/-- The bits before short band `sfb`, window `win`, after `base` bits, where bands `lo` to 5 have `slen1`
bits a window and the bands from 6 on `slen2` (R208, R209). -/
def shortOffset (base lo slen1 slen2 sfb win : Nat) : Nat :=
  base +
    if sfb < 6 then slen1 * (3 * (sfb - lo) + win)
    else slen1 * (3 * (6 - lo)) + slen2 * (3 * (sfb - 6) + win)

/-- The width of short band `sfb` (R208, R209). -/
def shortWidth (slen1 slen2 sfb : Nat) : Nat := if sfb < 6 then slen1 else slen2

/-- Whether long band `sfb` of granule 1 is shared with granule 0 (R207). -/
def sharedBand (s : State) (gr ch : Fin 2) (sfb : Nat) : Bool :=
  decide (gr = 1) &&
    s.scfsi.getLsbD (4 * ch.val + (if sfb < 6 then 0 else if sfb < 11 then 1 else if sfb < 16 then 2 else 3))

/-- The bits the long layout reads before band `sfb`: those of the bands below it that are not shared
(R207). -/
def longOffsetShared (s : State) (gr ch : Fin 2) (slen1 slen2 : Nat) : Nat → Nat
  | 0 => 0
  | sfb + 1 =>
    longOffsetShared s gr ch slen1 slen2 sfb +
      if sharedBand s gr ch sfb then 0 else if sfb < 11 then slen1 else slen2

/-! ## The spectrum decoder (42_spectrum_huffman.md) -/

/-- The `for L in 1..32` loop of `Match` (R232) with `fuel` turns left, `l` bits examined, `v` their value. -/
def matchLoop (entries : List CodeWord) : Nat → Nat → Nat → State → Option Nat × State
  | 0, _, _, s => (none, s)
  | fuel + 1, l, v, s =>
    let b := readBits .mdbuf (s.cur.toNat + l) 1 s
    let v := 2 * v + b.1
    match entries.findIdx? fun e => e.code == v && e.len == l + 1 with
    | some i => (some i, { b.2 with cur := b.2.cur + BitVec.ofNat 32 (l + 1) })
    | none => matchLoop entries fuel (l + 1) v b.2

/-- `Match(entries)` (R232). -/
def matchWord (entries : List CodeWord) (s : State) : Option Nat × State := matchLoop entries 32 0 0 s

/-- `if lb > 0 and x = 15: x <- x + rd(lb)` (R235). -/
def escape (lb x : Nat) (s : State) : Nat × State :=
  if lb > 0 ∧ x = 15 then
    let t := take .mdbuf lb s
    (x + t.1, t.2)
  else (x, s)

/-- `if x != 0: if rd(1) = 1: x <- -x` (R235, R238). -/
def sign (x : Nat) (s : State) : Int × State :=
  if x ≠ 0 then
    let t := take .mdbuf 1 s
    if t.1 = 1 then (-(x : Int), t.2) else ((x : Int), t.2)
  else (0, s)

/-- `SAMP[gr][ch][i] <- v` (10_state.md R43). -/
def setSamp (gr ch : Fin 2) (i : Nat) (v : Int) (s : State) : State :=
  { s with samp := Memory.write s.samp (sampAddr gr ch i) (BitVec.ofInt 16 v) }

/-- The last line of `HUFPAIR` (R235). -/
def storePair (gr ch : Fin 2) (x y : Int) (s : State) : State :=
  let s := setSamp gr ch s.idx.toNat x s
  let s := setSamp gr ch (s.idx.toNat + 1) y s
  { s with idx := s.idx + 2 }

/-- `HUFPAIR gr, ch, tbl` (R235); the flag is whether it decoded a pair. A tree that a configuration does not
have is a decode failure (DESIGN CHOICE, assumption log 14). -/
def hufpair (gr ch : Fin 2) (tbl : Nat) (s : State) : State × Bool :=
  if tbl = 0 then (storePair gr ch 0 0 s, true)
  else if tbl = 4 ∨ tbl = 14 then (raise .huffmanDecodeFailure s.cur.toNat s, false)
  else
    match lookupKey (treeOf tbl) s.cfg.htab with
    | none => (raise .huffmanDecodeFailure s.cur.toNat s, false)
    | some tree =>
      match matchWord tree.entries s with
      | (none, t) => (raise .huffmanDecodeFailure s.cur.toNat t, false)
      | (some i, t) =>
        let x := escape (t.cfg.linbits tbl) (i / tree.dim) t
        let x := sign x.1 x.2
        let y := escape (t.cfg.linbits tbl) (i % tree.dim) x.2
        let y := sign y.1 y.2
        (storePair gr ch x.1 y.1 y.2, true)

/-- The last two lines of `HUFQUAD` (R238). -/
def storeQuad (gr ch : Fin 2) (v w x y : Int) (s : State) : State :=
  let s := setSamp gr ch s.idx.toNat v s
  let s := setSamp gr ch (s.idx.toNat + 1) w s
  let s := setSamp gr ch (s.idx.toNat + 2) x s
  let s := setSamp gr ch (s.idx.toNat + 3) y s
  { s with idx := s.idx + 4 }

/-- The signs and the stores of a quadruple `q` (R237, R238). -/
def quadValues (gr ch : Fin 2) (q : Nat) (s : State) : State :=
  let v := sign (q / 8 % 2) s
  let w := sign (q / 4 % 2) v.2
  let x := sign (q / 2 % 2) w.2
  let y := sign (q % 2) x.2
  storeQuad gr ch v.1 w.1 x.1 y.1 y.2

/-- `HUFQUAD gr, ch, sel` (R238); the flag is whether it decoded a quadruple. -/
def hufquad (gr ch : Fin 2) (sel : Bool) (s : State) : State × Bool :=
  if sel then
    let t := take .mdbuf 4 s
    (quadValues gr ch (t.1 ^^^ 0xF) t.2, true)
  else
    match matchWord s.cfg.qtabA s with
    | (none, t) => (raise .huffmanDecodeFailure s.cur.toNat t, false)
    | (some q, t) => (quadValues gr ch q t, true)

/-- The big-value loop of `SPEC` (R240) with `fuel` turns left; the flag is `ok`. -/
def specPairs (gr ch : Fin 2) (bvend r0 r1 : Nat) : Nat → State → State × Bool
  | 0, s => (s, true)
  | fuel + 1, s =>
    if s.idx.toNat < bvend then
      let g := s.si.get gr ch
      let t := if s.idx.toNat < r0 then g.tsel0 else if s.idx.toNat < r1 then g.tsel1 else g.tsel2
      let d := hufpair gr ch t.toNat s
      if d.2 then specPairs gr ch bvend r0 r1 fuel d.1 else d
    else (s, true)

/-- The quadruple loop of `SPEC` (R240) with `fuel` turns left; the flag is `ok`. -/
def specQuads (gr ch : Fin 2) (stop : Nat) : Nat → State → State × Bool
  | 0, s => (s, true)
  | fuel + 1, s =>
    if s.cur.toNat < stop ∧ s.idx.toNat + 4 ≤ 576 then
      let d := hufquad gr ch ((s.si.get gr ch).c1sel == 1) s
      if d.2 then specQuads gr ch stop fuel d.1 else d
    else (s, true)

/-- `SPEC gr, ch` (R240, R239), each loop given more turns than samples; the flag is whether no code word
failed. -/
def spec (gr ch : Fin 2) (s : State) : State × Bool :=
  let g := s.si.get gr ch
  let s := { s with samp := Memory.clear s.samp (sampBase gr ch) (sampBase gr ch + 576), idx := 0 }
  let stop := s.p2start.toNat + g.p23len.toNat
  let bvend := min (2 * g.bigv.toNat) 576
  let r0 := if g.wsw = 1 then 36 else s.cfg.sfbLong s.hdr.srIdx.toNat (g.r0cnt.toNat + 1)
  let r1 :=
    if g.wsw = 1 then 576
    else s.cfg.sfbLong s.hdr.srIdx.toNat (min (g.r0cnt.toNat + g.r1cnt.toNat + 2) 22)
  let d := specPairs gr ch bvend r0 r1 577 s
  let d := if d.2 then specQuads gr ch stop 577 d.1 else d
  ({ d.1 with
      si := d.1.si.set gr ch { d.1.si.get gr ch with nzc := d.1.idx }
      cur := BitVec.ofNat 32 stop }, d.2)

/-! ## The arithmetic coder (44_arithmetic_coder.md) -/

/-- The region of R283. -/
def region (s : State) : Nat :=
  if s.cfgModel = 0 then 0 else s.cfg.regionOf s.cfgNreg.toNat s.ac.pos.toNat

/-- The split point of R285, an exact number. -/
def mid (c : Coder) (r : Nat) : Nat :=
  let n0 := (Memory.read c.cnt (cntAddr r c.ctx.toNat false)).toNat
  let n1 := (Memory.read c.cnt (cntAddr r c.ctx.toNat true)).toNat
  c.low.toNat + (c.high.toNat - c.low.toNat) / 2 ^ 12 * ((n1 + 1) * 4096 / (n0 + n1 + 2))

/-- The interval part of a decision (R285, R286). -/
def split (c : Coder) (r : Nat) (y : Bool) : Coder :=
  if y then { c with high := BitVec.ofNat 32 (mid c r) } else { c with low := BitVec.ofNat 32 (mid c r + 1) }

/-- The model update of R284. -/
def update (c : Coder) (r : Nat) (y : Bool) : Coder :=
  let at0 := cntAddr r c.ctx.toNat false
  let at1 := cntAddr r c.ctx.toNat true
  let aty := if y then at1 else at0
  let cnt := Memory.write c.cnt aty (Memory.read c.cnt aty + 1)
  let cnt :=
    if 65534 < (Memory.read cnt aty).toNat then
      let halved := Memory.write cnt at0 (Memory.read cnt at0 >>> 1)
      Memory.write halved at1 (Memory.read cnt at1 >>> 1)
    else cnt
  let ctx := 2 * c.ctx.toNat + (if y then 1 else 0)
  if 512 ≤ ctx then { c with cnt := cnt, ctx := 1, pos := c.pos + 1 }
  else { c with cnt := cnt, ctx := BitVec.ofNat 10 ctx }

/-- Whether the renormalisation loops go on: `((LOW ^ HIGH) & 0xFF000000) = 0` (R286). -/
def goesOn (c : Coder) : Bool := ((c.low ^^^ c.high) &&& 0xFF000000#32) == 0

/-- The renormalisation loop of `ACENCB` (R286) with `fuel` turns left. -/
def renormEnc : Nat → State → Flow
  | 0, s => .go s
  | fuel + 1, s =>
    if goesOn s.ac then
      (append .code (s.ac.high.extractLsb' 24 8) s).bind fun s =>
        renormEnc fuel { s with ac := { s.ac with low := s.ac.low <<< 8, high := s.ac.high <<< 8 ||| 0xFF#32 } }
    else .go s

/-- The interval and the model after the decision `y` of a state, before its renormalisation (R286). -/
def decided (y : Bool) (s : State) : State :=
  { s with ac := update (split s.ac (region s) y) (region s) y }

/-- `ACENCB y` (R286). -/
def acencb (y : Bool) (s : State) : Flow := renormEnc 5 (decided y s)

/-- `NextByte()` shifted into `XVAL` (R287, R281). -/
def nextByte (code : Buffer) (c : Coder) : Coder :=
  let b : Byte := if c.cpos.toNat < code.len then code.read c.cpos.toNat else 0
  { c with xval := c.xval <<< 8 ||| b.setWidth 32, cpos := c.cpos + 1 }

/-- The renormalisation loop of `ACDECB` (R287) with `fuel` turns left. -/
def renormDec (code : Buffer) : Nat → Coder → Coder
  | 0, c => c
  | fuel + 1, c =>
    if goesOn c then
      renormDec code fuel (nextByte code { c with low := c.low <<< 8, high := c.high <<< 8 ||| 0xFF#32 })
    else c

/-- `ACDECB` (R287). -/
def acdecb (s : State) : State :=
  let r := region s
  let y := decide (s.ac.xval.toNat ≤ mid s.ac r)
  { s with ac := renormDec s.code 5 (update (split s.ac r y) r y), res := if y then 1 else 0 }

/-- `ACINIT dir` (R281). -/
def acinit (dir : Dir) (s : State) : State :=
  let c := { s.ac with low := 0, high := 0xFFFFFFFF#32, ctx := 1, pos := 0, cnt := [] }
  match dir with
  | .encode => { s with ac := c, code := Buffer.empty, acMode := .encoding }
  | .decode =>
    let c := { c with cpos := 0, xval := 0 }
    { s with
      ac := nextByte s.code (nextByte s.code (nextByte s.code (nextByte s.code c)))
      plain := Buffer.empty
      acMode := .decoding }

/-- Decisions coded one after another (R288). -/
def encAll : List Bool → State → Flow
  | [], s => .go s
  | y :: ys, s => (acencb y s).bind (encAll ys)

/-- The decisions of one byte: the flag 0, then the bits `PLAIN[k][7]` down to `PLAIN[k][0]` (R288). -/
def byteDecisions (v : Byte) : List Bool :=
  [false, v.getLsbD 7, v.getLsbD 6, v.getLsbD 5, v.getLsbD 4, v.getLsbD 3, v.getLsbD 2, v.getLsbD 1,
   v.getLsbD 0]

/-- `ACFLUSH` (R290). -/
def acflush (s : State) : Flow :=
  let low := s.ac.low
  (appends .code [low.extractLsb' 24 8, low.extractLsb' 16 8, low.extractLsb' 8 8, low.extractLsb' 0 8] s).bind
    fun s => .go { s with acMode := .idle }

/-- `ACENC` (R288). -/
def acenc (s : State) : Flow :=
  (encAll (s.plain.bytes.flatMap byteDecisions ++ [true]) (acinit .encode s)).bind acflush

/-- `n` decisions decoded into `c`, the first the most significant bit: "`c <- 2*c + dec()`" (R289). -/
def decodeBits : Nat → Nat → State → Nat × State
  | 0, c, s => (c, s)
  | n + 1, c, s =>
    let s := acdecb s
    decodeBits n (2 * c + s.res.toNat) s

/-- One turn of the loop of `ACDEC` (R289): input exhausted, the terminal flag, or one byte more. -/
def acdecTurn (s : State) : Turn :=
  if s.code.len < s.ac.cpos.toNat then .leave (raise .acInputExhausted s.ac.cpos.toNat s)
  else
    let s := acdecb s
    if s.res = 1 then .leave s
    else
      let c := decodeBits 8 0 s
      match append .plain (BitVec.ofNat 8 c.1) c.2 with
      | .go s => .again s
      | .halt s => .stop s

/-! ## The container (30_encoding.md R128, R130) -/

/-- The bytes of R128 for `SAMP`: granule, then channel, then index; the high byte first. -/
def plainStream (samp : Memory 16) (channels : Nat) : List Byte :=
  (List.range 2).flatMap fun gr =>
    (List.range channels).flatMap fun ch =>
      (List.range 576).flatMap fun i =>
        let v := Memory.read samp ((2 * gr + ch) * 576 + i)
        [v.extractLsb' 8 8, v.extractLsb' 0 8]

/-- The container frame of R130 for the frame at `FOFF` and a payload: the header, CRC and side
information verbatim (bytes beyond `IN_LEN` are 0), the payload length high byte first, the payload. -/
def containerFrame (s : State) (payload : List Byte) : List Byte :=
  s.ibuf.slice s.foff.toNat (4 + 2 * s.hdr.crcPresent.toNat + (if s.hdr.channels = 1 then 17 else 32)) ++
    [BitVec.ofNat 8 (payload.length / 256), BitVec.ofNat 8 payload.length] ++ payload

/-! ## The orchestrator (45_container_orchestrator.md) -/

/-- `SER` (R321). -/
def ser (s : State) : Flow :=
  appends .plain (plainStream s.samp s.hdr.channels.toNat) { s with plain := Buffer.empty }

/-- "`for a in FOFF..FOFF+n-1: Append(OBUF, MemRead(IBUF, a, 1))`" from address `a` on, `n` bytes to go
(R323). -/
def copyOut : Nat → Nat → State → Flow
  | 0, _, s => .go s
  | n + 1, a, s =>
    let s := if a < s.ibuf.len then s else raise .truncatedInput (8 * a) s
    (append .obuf (s.ibuf.read a) s).bind (copyOut n (a + 1))

/-- The lines of `EMIT` after `SER` and `ACENC` (R323). -/
def emitFrame (s : State) : Flow :=
  if 65535 < s.code.len then .go (raise .payloadOverflow s.foff.toNat s)
  else
    let n := 4 + 2 * s.hdr.crcPresent.toNat + (if s.hdr.channels = 1 then 17 else 32)
    (copyOut n s.foff.toNat s).bind fun s =>
      (appends .obuf ([BitVec.ofNat 8 (s.code.len / 256), BitVec.ofNat 8 s.code.len] ++ s.code.bytes) s).bind
        fun s => .go { s with frames := s.frames + 1 }

/-- `EMIT` (R323). -/
def emit (s : State) : Flow := ((ser s).bind acenc).bind emitFrame

/-- "`SAMP <- all 0; NZC <- all 0; SCF_L <- all 0; SCF_S <- all 0`" (R326). -/
def zeroed (s : State) : State :=
  { s with
    samp := []
    scfL := []
    scfS := []
    si :=
      { g0c0 := { s.si.g0c0 with nzc := 0 }
        g0c1 := { s.si.g0c1 with nzc := 0 }
        g1c0 := { s.si.g1c0 with nzc := 0 }
        g1c1 := { s.si.g1c1 with nzc := 0 } } }

/-- "`if ok: do SCF(gr, ch); do SPEC(gr, ch)`" for each granule and channel in order (R326). -/
def granules : List (Fin 2 × Fin 2) → State × Bool → State × Bool
  | [], d => d
  | p :: rest, d => granules rest (if d.2 then spec p.1 p.2 (scf p.1 p.2 d.1) else d)

/-- What `FRAME` does between `HDR` and `EMIT` for a supported frame (R326). -/
def decodeFrame (s : State) : State :=
  let s := resv (zeroed (side s))
  let order : List (Fin 2 × Fin 2) :=
    if s.hdr.channels = 1 then [(0, 0), (1, 0)] else [(0, 0), (0, 1), (1, 0), (1, 1)]
  if s.mdValid then (granules order (s, true)).1 else s

/-- `FRAME` (R326). -/
def frame (s : State) : Flow :=
  if s.ibuf.len ≤ s.foff.toNat + 4 then .go { s with done := true }
  else
    let s := hdr s
    if s.hValid = false then .go { s with foff := s.foff + 1, skipped := s.skipped + 1, ring := [] }
    else if ¬ (s.hdr.version = 3 ∧ s.hdr.layer = 3) then
      let s := raise .unsupportedFrame s.foff.toNat s
      .go
        { s with
          foff := s.foff + s.hdr.frameSize.setWidth 28
          skipped := s.skipped + 1
          ring := []
          hValid := false }
    else (emit (decodeFrame s)).bind fun s => .go (adv s)

/-- `SINIT` (40_control_and_bitreader.md R163). -/
def sinit (s : State) : State :=
  { s with
    obuf := Buffer.empty
    frames := 0
    skipped := 0
    ring := []
    foff := s.startOff
    hValid := false
    siValid := false
    mdValid := false
    done := false }

/-- One turn of the loop of `RUN` (R328). -/
def runTurn (s : State) : Turn :=
  if s.foff.toNat + 4 < s.ibuf.len then
    match frame s with
    | .go s => .again s
    | .halt s => .stop s
  else .leave s

/-- The lines of `RUN` after its loop (R328). -/
def runEnd (s : State) : State :=
  let s := if s.frames = 0 then raise .noFrames s.foff.toNat s else s
  { s with done := true }

end Sys2Proof.Reference
end

