-- ==== Sys2Proof/Certificates/Slice0/Obligations.lean ====
section
/-! DEFINITION. The statements about the model, one `def` each. `Reference` holds the pseudocode of the
rules; `writes` the parts a command may change; `unchangedBut` says that everything else reads as before. -/

open Sys2Proof Sys2Proof.Machine

/-! ## Command words -/

/-- 30_encoding.md R111, R112: every well-formed command is read back from its word, with every operand. -/
def Obligations.DecodeEncode : Prop :=
  ∀ i : Instr, i.wf = true → decode (encode i) = .ok i

/-- 30_encoding.md R113: a word that decodes is the one word of its command, and that command is well
formed; no bit of a legal word is ignored. -/
def Obligations.DecodedWordIsTheEncoding : Prop :=
  ∀ (w : Word) (i : Instr), decode w = .ok i → i.wf = true ∧ encode i = w

/-- 30_encoding.md R111 to R113: the decoder accepts exactly the words that match a row of the opcode map
with no reserved bit set and, for `RDBITS`, `buf ≤ 4` and `len ≤ 32`. -/
def Obligations.LegalWordsDecode : Prop :=
  ∀ w : Word, Reference.legalWord w ↔ ∃ i, decode w = .ok i

/-- 60_exceptions.md R361: an illegal word written to `CMD` records IllegalCommand with the word and
changes nothing else (beyond the clearing of `LASTERR` and `ERRINFO` at acceptance, R110). -/
def Obligations.IllegalWordIsRecorded : Prop :=
  ∀ (s : State) (rest : List HostOp) (w : Word), s.host = .regWrite 0 w :: rest →
    ¬ Reference.legalWord w →
    step s = .next
      (raise .illegalCommand w.toNat (Reference.accepted { s with host := rest }))

/-- 30_encoding.md R114: the example words, with R165's. -/
def Obligations.ExampleWordsDecode : Prop :=
  decode 0x1010000C = .ok (.rdbits .ibuf true 12) ∧
  decode 0x10200020 = .ok (.rdbits .mdbuf false 32) ∧
  decode 0x23000002 = .ok (.scf 1 0) ∧
  decode 0x30000038 = .ok (.hufpair 0 1 24) ∧
  decode 0x31000005 = .ok (.hufquad 1 0 true) ∧
  decode 0x40000001 = .ok (.acinit .decode) ∧
  decode 0x41000001 = .ok (.acencb true) ∧
  decode 0x53000000 = .ok .run

/-- 10_state.md R23, 30_encoding.md R110: when the host's next action writes a legal word to `CMD`, the
step is that command's meaning on the state without that action. The second clause is the model's choice
(assumption log 1): `withFetchWord` puts such a write in front of the host's pending actions. -/
def Obligations.StepRunsTheDecodedCommand : Prop :=
  (∀ (s : State) (rest : List HostOp) (w : Word) (i : Instr), s.host = .regWrite 0 w :: rest →
    decode w = .ok i → step s = exec i { s with host := rest }) ∧
  (∀ (s : State) (w : Word) (i : Instr), decode w = .ok i →
    step (s.withFetchWord 32 w.toNat) = exec i s)

/-! ## Conditions -/

/-- 60_exceptions.md R351: what `raise C(info)` records; nothing else changes. -/
def Obligations.RaiseRecordsTheCondition : Prop :=
  ∀ (c : Cond) (info : Nat) (s : State),
    raise c info s =
      { s with
        err := s.err ||| (1#13 <<< c.code)
        lastErr :=
          if c ≠ .truncatedInput ∨ s.lastErr = 0 then BitVec.ofNat 4 c.code else s.lastErr
        errInfo :=
          if c ≠ .truncatedInput ∨ s.lastErr = 0 then BitVec.ofNat 32 info else s.errInfo }

/-- 60_exceptions.md R360: a command whose precondition does not hold records SequenceError with its word
and changes nothing else; the list of preconditions is complete, so a command whose precondition holds never
records it, nor does a composite command for its sub-steps. That the word recorded, the one written to `CMD`
(30_encoding.md R110), is the command's encoding is the model's reading (DEDUCED, assumption log 20). -/
def Obligations.FailedPreconditionIsSequenceError : Prop :=
  (∀ (i : Instr) (s : State), i.wf = true → ¬ Reference.precondition i s →
    exec i s = .next
      (raise .sequenceError (encode i).toNat (Reference.accepted s))) ∧
  (∀ (i : Instr) (s t : State), Reference.precondition i s → i ≠ .srst → i ≠ .clrerr →
    exec i s = .next t → t.err.getLsbD 9 = s.err.getLsbD 9)

/-- 60_exceptions.md R362: an append to a full buffer records CapacityFault with the buffer's id, stores
nothing and stops the command there: `ACFLUSH` and `ACENCB` in the middle of their bytes, `SER` in the
middle of the samples, `EMIT` and `FRAME` with no frame counted and nothing stepped over, `ACDEC` still
decoding with `PLAIN` full, `RUN` with `DONE` not set. -/
def Obligations.FullBufferStopsTheCommand : Prop :=
  (∀ (b : BufId) (v : Byte) (s : State), s.cap b = some (s.buf b).len →
    append b v s = .halt (raise .capacityFault b.id s)) ∧
  (∀ s : State, s.acMode = .encoding → s.cfg.codeCap = some s.code.len →
    exec .acflush s = .next (raise .capacityFault 3 (Reference.accepted s))) ∧
  (∀ (s : State) (n : Nat), s.acMode = .encoding → n < 4 → s.cfg.codeCap = some (s.code.len + n) →
    ∃ code : Buffer,
      exec .acflush s = .next (raise .capacityFault 3 { Reference.accepted s with code := code }) ∧
      code.bytes = s.code.bytes ++
        [s.ac.low.extractLsb' 24 8, s.ac.low.extractLsb' 16 8, s.ac.low.extractLsb' 8 8,
          s.ac.low.extractLsb' 0 8].take n) ∧
  (∀ (y : Bool) (s : State), s.acMode = .encoding → s.ac.low.toNat ≤ s.ac.high.toNat →
    s.cfg.codeCap = some s.code.len → Reference.goesOn (Reference.decided y s).ac = true →
    exec (.acencb y) s =
      .next (raise .capacityFault 3 (Reference.decided y (Reference.accepted s)))) ∧
  (∀ (s : State) (c : Nat), s.hValid = true → s.hdr.channels = 1 ∨ s.hdr.channels = 2 →
    s.cfg.plainCap = some c → c < 2304 * s.hdr.channels.toNat →
    ∃ plain : Buffer, plain.bytes = (Reference.plainStream s.samp s.hdr.channels.toNat).take c ∧
      exec .ser s = .next (raise .capacityFault 2 { Reference.accepted s with plain := plain }) ∧
      (s.siValid = true →
        exec .emit s = .next (raise .capacityFault 2 { Reference.accepted s with plain := plain }))) ∧
  (∀ s : State, s.hValid = true → s.siValid = true → s.cfg.plainCap = none → s.cfg.codeCap = none →
    s.cfg.obufCap = some s.obuf.len →
    ∃ t, exec .emit s = .next t ∧ t.obuf = s.obuf ∧ t.frames = s.frames ∧
      (t.code.len ≤ 65535 → t.lastErr = 12 ∧ t.errInfo = 4)) ∧
  (∀ s t : State, exec .emit s = .next t → t.lastErr = 12 → t.frames = s.frames) ∧
  (∀ s t : State, exec .frame s = .next t → t.lastErr = 12 →
    t.frames = s.frames ∧ t.foff = s.foff ∧ t.ring = s.ring) ∧
  (∀ s t : State, exec .acdec s = .next t → t.lastErr = 12 →
    s.cfg.plainCap = some t.plain.len ∧ t.errInfo = 2 ∧ t.acMode = .decoding) ∧
  (∀ s t : State, exec .run s = .next t → (t.done = false ↔ t.lastErr = 12))

/-- 10_state.md R25: a bit of `ERR` that is set stays set through every step but a `CLRERR` or an `SRST`. -/
def Obligations.ErrBitsAreSticky : Prop :=
  ∀ (s t : State) (k : Nat), step s = .next t → s.err.getLsbD k = true →
    (∀ rest, s.host ≠ .regWrite 0 0x01000000 :: rest ∧ s.host ≠ .regWrite 0 0x02000000 :: rest) →
    t.err.getLsbD k = true

/-- 10_state.md R26: "After a command, `LASTERR = 0` means the command raised nothing": `ERR` is then as it
was, for every command that does not clear it. -/
def Obligations.LastErrZeroMeansNothingRaised : Prop :=
  ∀ (i : Instr) (s t : State), exec i s = .next t → i ≠ .srst → i ≠ .clrerr → t.lastErr = 0 →
    t.err = s.err

/-! ## Control and the bit reader -/

/-- 40_control_and_bitreader.md R160, R162: `NOP` clears `LASTERR` and `ERRINFO`, `CLRERR` also `ERR`. -/
def Obligations.NopAndClrerrComplete : Prop :=
  ∀ s : State,
    exec .nop s = .next (Reference.accepted s) ∧
    exec .clrerr s = .next { s with err := 0, lastErr := 0, errInfo := 0 }

/-- 40_control_and_bitreader.md R161, 70_reset_and_hazards.md R390: after `SRST` every register, memory and
buffer has its reset value but for the five kept items; the tables are fixed (20_memory.md R83). -/
def Obligations.SrstLeavesTheResetState : Prop :=
  ∀ s : State, ∃ t, exec .srst s = .next t ∧
    t.ibuf = s.ibuf ∧ t.startOff = s.startOff ∧ t.cfgModel = s.cfgModel ∧ t.cfgNreg = s.cfgNreg ∧
    t.cfg = s.cfg ∧
    (∀ n, n ≠ 5 → n ≠ 6 → n ≠ 7 → n ≠ 8 → t.regRead n = State.reset.regRead n) ∧
    t.mdbuf.len = 0 ∧ t.plain.len = 0 ∧ t.code.len = 0 ∧ t.obuf.len = 0 ∧
    (∀ a, Memory.read t.samp a = 0) ∧ (∀ a, Memory.read t.scfL a = 0) ∧
    (∀ a, Memory.read t.scfS a = 0) ∧ (∀ a, Memory.read t.ac.cnt a = 0)

/-- 70_reset_and_hazards.md R390, 10_state.md R60: what the host reads after reset: 1 from `CFG_MODEL`, 20
from `CFG_NREG`, 0xFFFFFFFF from `HIGH`, 1 from `CTX`, 0 from every other number; all memories 0, all
buffers empty. -/
def Obligations.ResetValues : Prop :=
  (∀ n, State.reset.regRead n =
    if n = 0x05 then 1 else if n = 0x06 then 20 else if n = 0x61 then 0xFFFFFFFF
    else if n = 0x63 then 1 else 0) ∧
  (∀ b, (State.reset.buf b).len = 0) ∧
  (∀ a, Memory.read State.reset.samp a = 0 ∧ Memory.read State.reset.scfL a = 0 ∧
    Memory.read State.reset.scfS a = 0 ∧ Memory.read State.reset.ac.cnt a = 0)

/-- 40_control_and_bitreader.md R163: `SINIT`. -/
def Obligations.SinitStartsAStream : Prop :=
  ∀ s : State, exec .sinit s = .next
    { s with
      obuf := Buffer.empty, frames := 0, skipped := 0, ring := [], foff := s.startOff
      hValid := false, siValid := false, mdValid := false, done := false
      lastErr := 0, errInfo := 0 }

/-- 40_control_and_bitreader.md R164, R165: `RDBITS` reads bit by bit, raising TruncatedInput at each
missing bit, into `RES`, and moves `CUR` on when `adv = 1`. -/
def Obligations.RdbitsReadsBitByBit : Prop :=
  ∀ (b : BufId) (adv : Bool) (len : Nat) (s : State), len ≤ 32 →
    exec (.rdbits b adv len) s =
      .next (Reference.rdbits b adv len (Reference.accepted s))

/-- 40_control_and_bitreader.md R164: the bits read are the slice of the buffer written as one big binary
numeral extended by zeros: `floor(B / 2^(T − off − n)) mod 2^n`. -/
def Obligations.BitsAreTheBigEndianSlice : Prop :=
  ∀ (b : Buffer) (off n total : Nat), off + n ≤ total → 8 * b.len ≤ total →
    b.bits off n =
      Reference.numeral b * 2 ^ (total - 8 * b.len) / 2 ^ (total - off - n) % 2 ^ n

/-! ## The frame parser -/

/-- 41_frame_parser.md R182: `HDR`, on every header word, accepted or rejected. For a configuration without
an entry of a header table the entry is 0, and a division by it gives 0 (DESIGN CHOICE, assumption log 14). -/
def Obligations.HdrParsesTheHeader : Prop :=
  ∀ s : State, exec .hdr s = .next (Reference.hdr (Reference.accepted s))

/-- 41_frame_parser.md R185: with the default tables the frame size is the floor formula, exactly, and lies
in 24 … 2881, for a supported frame in 96 … 1441; 128 kbit/s at 44100 Hz gives 417, with padding 418. -/
def Obligations.FrameSizeIsTheFloorFormula : Prop :=
  (∀ w : Word, headerRejected w = false →
    let h := parseHeader Config.default w
    h.frameSize.toNat =
      Config.default.spf h.version.toNat h.layer.toNat / 8 * h.bitrate.toNat / h.srate.toNat
        + h.padding.toNat ∧
    24 ≤ h.frameSize.toNat ∧ h.frameSize.toNat ≤ 2881 ∧
    (h.version = 3 → h.layer = 3 → 96 ≤ h.frameSize.toNat ∧ h.frameSize.toNat ≤ 1441)) ∧
  (parseHeader Config.default 0xFFFB9000).frameSize = 417 ∧
  (parseHeader Config.default 0xFFFB9200).frameSize = 418

/-- 41_frame_parser.md R190: `SIDE` reads the side information field after field, each bit once, in the
order of the rule. -/
def Obligations.SideReadsTheFieldsInOrder : Prop :=
  ∀ s : State, s.hValid = true → s.hdr.version = 3 → s.hdr.layer = 3 →
    s.hdr.channels = 1 ∨ s.hdr.channels = 2 →
    exec .side s = .next (Reference.side (Reference.accepted s))

/-- 41_frame_parser.md R199: `RESV`, with its walk backward through the history and its copies. That all
bytes are stored where header tables other than the defaults give more than `MD_CAP` is the model's choice
(assumption log 23). -/
def Obligations.ResvResolvesTheReservoir : Prop :=
  ∀ s : State, s.siValid = true →
    exec .resv s = .next (Reference.resv (Reference.accepted s))

/-- 41_frame_parser.md R199, R200, 60_exceptions.md R356: `RESV` succeeds exactly when `MDB` is 0 or some
number of most recent frames holds `MDB` main-data bytes and does not reach before byte 0 of `IBUF`; then
`MD_LEN = MDB + max(FRAME_SIZE − P, 0)`, else `MDBUF` is empty and ReservoirInconsistency names the frame.
That `MD_LEN` may exceed `MD_CAP` under header tables other than the defaults is the model's choice
(assumption log 23). -/
def Obligations.ResvSucceedsExactlyWithEnoughHistory : Prop :=
  ∀ (s t : State), s.siValid = true → exec .resv s = .next t →
    (t.mdValid = true ↔
      s.mdb = 0 ∨ ∃ k ≤ s.ring.length,
        s.mdb.toNat ≤ ((s.ring.take k).map fun size => size.toNat - s.prefixLen).sum ∧
        ((s.ring.take k).map fun size => size.toNat).sum ≤ s.foff.toNat) ∧
    (t.mdValid = true → t.mdbuf.len = s.mdb.toNat + (s.hdr.frameSize.toNat - s.prefixLen)) ∧
    (t.mdValid = false → t.mdbuf.len = 0 ∧ t.lastErr = 4 ∧ t.errInfo = s.foff.setWidth 32)

/-- 41_frame_parser.md R206, R207: the long-window layout: where each of the 21 long bands is read, or
shared from granule 0; the 39 short entries are 0; every other entry reads as before; TruncatedInput at the
first missing bit, if one is missing. -/
def Obligations.ScfLongLayout : Prop :=
  ∀ (s : State) (gr ch : Fin 2), s.mdValid = true → ch.val < s.hdr.channels.toNat →
    s.cur.toNat < 2 ^ 31 →
    ¬ ((s.si.get gr ch).wsw = 1 ∧ (s.si.get gr ch).btype = 2) →
    let slen1 := (s.cfg.slen (s.si.get gr ch).sfcomp.toNat).1
    let slen2 := (s.cfg.slen (s.si.get gr ch).sfcomp.toNat).2
    slen1 ≤ 4 → slen2 ≤ 4 →
    ∃ t, exec (.scf gr ch) s = .next t ∧
      t.p2start = s.cur ∧
      t.cur.toNat = s.cur.toNat + Reference.longOffsetShared s gr ch slen1 slen2 21 ∧
      Reference.notesMissing (s.mdbuf.missing s.cur.toNat
        (Reference.longOffsetShared s gr ch slen1 slen2 21)) s t ∧
      (∀ sfb < 21, Memory.read t.scfL (scfLAddr gr ch sfb) =
        if Reference.sharedBand s gr ch sfb then Memory.read s.scfL (scfLAddr 0 ch sfb)
        else BitVec.ofNat 4
          (s.mdbuf.bits (s.cur.toNat + Reference.longOffsetShared s gr ch slen1 slen2 sfb)
            (if sfb < 11 then slen1 else slen2))) ∧
      (∀ win < 3, ∀ sfb < 13, Memory.read t.scfS (scfSAddr gr ch win sfb) = 0) ∧
      (∀ a, (∀ sfb < 21, a ≠ scfLAddr gr ch sfb) → Memory.read t.scfL a = Memory.read s.scfL a) ∧
      (∀ a, (∀ win < 3, ∀ sfb < 13, a ≠ scfSAddr gr ch win sfb) →
        Memory.read t.scfS a = Memory.read s.scfS a) ∧
      unchangedBut (writes (.scf gr ch)) s t

/-- 41_frame_parser.md R206, R208, R209: the short and the mixed layout: where each entry is read, which
entries are 0, and that every entry of another granule or channel reads as before; TruncatedInput likewise. -/
def Obligations.ScfShortAndMixedLayout : Prop :=
  ∀ (s : State) (gr ch : Fin 2), s.mdValid = true → ch.val < s.hdr.channels.toNat →
    s.cur.toNat < 2 ^ 31 →
    (s.si.get gr ch).wsw = 1 → (s.si.get gr ch).btype = 2 →
    let slen1 := (s.cfg.slen (s.si.get gr ch).sfcomp.toNat).1
    let slen2 := (s.cfg.slen (s.si.get gr ch).sfcomp.toNat).2
    let mixed := (s.si.get gr ch).mixed = 1
    let base := if mixed then 8 * slen1 else 0
    let lo := if mixed then 3 else 0
    slen1 ≤ 4 → slen2 ≤ 4 →
    ∃ t, exec (.scf gr ch) s = .next t ∧
      t.p2start = s.cur ∧
      t.cur.toNat = s.cur.toNat + (if mixed then 17 else 18) * slen1 + 18 * slen2 ∧
      Reference.notesMissing (s.mdbuf.missing s.cur.toNat
        ((if mixed then 17 else 18) * slen1 + 18 * slen2)) s t ∧
      (∀ sfb < 21, Memory.read t.scfL (scfLAddr gr ch sfb) =
        if mixed ∧ sfb < 8 then
          BitVec.ofNat 4 (s.mdbuf.bits (s.cur.toNat + sfb * slen1) slen1)
        else 0) ∧
      (∀ win < 3, ∀ sfb < 13, Memory.read t.scfS (scfSAddr gr ch win sfb) =
        if lo ≤ sfb ∧ sfb < 12 then
          BitVec.ofNat 4
            (s.mdbuf.bits (s.cur.toNat + Reference.shortOffset base lo slen1 slen2 sfb win)
              (Reference.shortWidth slen1 slen2 sfb))
        else 0) ∧
      (∀ a, (∀ sfb < 21, a ≠ scfLAddr gr ch sfb) → Memory.read t.scfL a = Memory.read s.scfL a) ∧
      (∀ a, (∀ win < 3, ∀ sfb < 13, a ≠ scfSAddr gr ch win sfb) →
        Memory.read t.scfS a = Memory.read s.scfS a) ∧
      unchangedBut (writes (.scf gr ch)) s t

/-- 41_frame_parser.md R206: with the default tables the long layout consumes at most 74 bits, as R206 says;
the short and mixed layouts of R208 and R209 at most 126, the number of vector V6b (assumption log 19). -/
def Obligations.ScfConsumptionIsBounded : Prop :=
  ∀ (s t : State) (gr ch : Fin 2), s.cfg = Config.default → s.mdValid = true →
    ch.val < s.hdr.channels.toNat → exec (.scf gr ch) s = .next t →
    (¬ ((s.si.get gr ch).wsw = 1 ∧ (s.si.get gr ch).btype = 2) → (t.cur - s.cur).toNat ≤ 74) ∧
    ((s.si.get gr ch).wsw = 1 → (s.si.get gr ch).btype = 2 → (t.cur - s.cur).toNat ≤ 126)

/-- 41_frame_parser.md R216: `ADV` pushes the frame size on the history of nine and moves `FOFF` on. -/
def Obligations.AdvPushesTheFrameSize : Prop :=
  ∀ s : State, s.hValid = true → ∃ ring : List (BitVec 12),
    exec .adv s = .next
      { s with
        ring := ring
        foff := s.foff + s.hdr.frameSize.setWidth 28
        hValid := false, siValid := false, mdValid := false
        lastErr := 0, errInfo := 0 } ∧
    ring.length = min (s.ring.length + 1) 9 ∧
    ringEntry ring 0 = s.hdr.frameSize ∧
    ∀ i, i < 8 → ringEntry ring (i + 1) = ringEntry s.ring i

/-! ## The spectrum decoder -/

/-- 42_spectrum_huffman.md R231, R232: over code words of which none begins another, `Match` returns entry
`i` exactly when the bits at `CUR` are its code word, and `CUR` then stands behind it. -/
def Obligations.MatchFindsTheCodeWord : Prop :=
  ∀ (b : Buffer) (es : List CodeWord) (c : Cursor) (i : Nat) (e : CodeWord),
    uniquelyDecodable es → es[i]? = some e → 1 ≤ e.len → e.len ≤ 32 →
    ((matchCode b es c).1 = some i ↔ b.bits c.cur.toNat e.len = e.code) ∧
    ((matchCode b es c).1 = some i → (matchCode b es c).2.cur = c.cur + BitVec.ofNat 32 e.len)

/-- 42_spectrum_huffman.md R231, R232, 60_exceptions.md R355: the default tables are complete, so a search
never fails: `HUFPAIR` records HuffmanDecodeFailure for table ids 4 and 14 only, `HUFQUAD` never. -/
def Obligations.DefaultTablesNeverFailToMatch : Prop :=
  ∀ s : State, s.cfg = Config.default →
    (∀ (gr ch : Fin 2) (tbl : Fin 32) (t : State),
      Reference.precondition (.hufpair gr ch tbl) s → exec (.hufpair gr ch tbl) s = .next t →
      (t.lastErr = 3 ↔ tbl = 4 ∨ tbl = 14)) ∧
    (∀ (gr ch : Fin 2) (sel : Bool) (t : State),
      Reference.precondition (.hufquad gr ch sel) s → exec (.hufquad gr ch sel) s = .next t →
      t.lastErr ≠ 3)

/-- 42_spectrum_huffman.md R232 to R235: `HUFPAIR` for every table id: the code word, the escapes, the
signs, the two samples, `IDX` and `CUR`, or HuffmanDecodeFailure. That a configuration without the tree of a
table fails to decode is the model's choice (assumption log 14). -/
def Obligations.HufpairDecodesOnePair : Prop :=
  ∀ (gr ch : Fin 2) (tbl : Fin 32) (s : State),
    Reference.precondition (.hufpair gr ch tbl) s →
    exec (.hufpair gr ch tbl) s =
      .next (Reference.hufpair gr ch tbl.val (Reference.accepted s)).1

/-- 42_spectrum_huffman.md R237, R238: `HUFQUAD` for both codes. -/
def Obligations.HufquadDecodesOneQuadruple : Prop :=
  ∀ (gr ch : Fin 2) (sel : Bool) (s : State),
    Reference.precondition (.hufquad gr ch sel) s →
    exec (.hufquad gr ch sel) s =
      .next (Reference.hufquad gr ch sel (Reference.accepted s)).1

/-- 42_spectrum_huffman.md R236, 10_state.md R43: with the default tables every step keeps every sample
within −8206 … 8206. -/
def Obligations.SamplesStayInRange : Prop :=
  ∀ s t : State, s.cfg = Config.default → s.SamplesInRange → step s = .next t →
    t.cfg = Config.default ∧ t.SamplesInRange

/-- 42_spectrum_huffman.md R239, R240: `SPEC`: the granule zeroed, the big-value loop with its three tables,
the quadruple loop, `NZC` and `CUR` at the end. That a configuration without the tree of a table fails to
decode is the model's choice (assumption log 14). -/
def Obligations.SpecDecodesTheGranule : Prop :=
  ∀ (gr ch : Fin 2) (s : State), Reference.precondition (.spec gr ch) s →
    exec (.spec gr ch) s =
      .next (Reference.spec gr ch (Reference.accepted s)).1

/-- 10_state.md R41 (an inference of the spec, "[derived: …]"), 42_spectrum_huffman.md R240: after `SPEC`,
`NZC = IDX ≤ 576`, every sample of the granule at or beyond `NZC` is 0, every sample of another granule or
channel reads as before, every other side-information register is as before, and `CUR` stands at the
granule's end. -/
def Obligations.SpecZeroesBeyondNzc : Prop :=
  ∀ (gr ch : Fin 2) (s : State), Reference.precondition (.spec gr ch) s →
    ∃ t, exec (.spec gr ch) s = .next t ∧
      (t.si.get gr ch).nzc = t.idx ∧ t.idx.toNat ≤ 576 ∧
      (∀ i < 576, t.idx.toNat ≤ i → Memory.read t.samp (sampAddr gr ch i) = 0) ∧
      (∀ a, (∀ i < 576, a ≠ sampAddr gr ch i) → Memory.read t.samp a = Memory.read s.samp a) ∧
      t.si = s.si.set gr ch { s.si.get gr ch with nzc := t.idx } ∧
      t.cur = s.p2start + (s.si.get gr ch).p23len.setWidth 32 ∧
      unchangedBut (writes (.spec gr ch)) s t

/-! ## The arithmetic coder -/

/-- 44_arithmetic_coder.md R282, R285: the split point is the exact number of the rule and lies in the
interval, below its upper bound, so both parts are never empty. -/
def Obligations.SplitPointIsInsideTheInterval : Prop :=
  ∀ (s : State) (r : Nat), s.CoderOk →
    s.ac.prob r ≤ 4095 ∧
    (s.ac.mid r).toNat = Reference.mid s.ac r ∧
    s.ac.low.toNat ≤ (s.ac.mid r).toNat ∧ (s.ac.mid r).toNat < s.ac.high.toNat

/-- 44_arithmetic_coder.md R284: the counts, the context and the position after one decision: the coded
count one up, or both halved at the ceiling; every other count as before; the ninth decision of a symbol
starts a new context and moves `POS` on. -/
def Obligations.ModelUpdateCountsTheDecision : Prop :=
  ∀ (c : Coder) (r : Nat) (y : Bool), 1 ≤ c.ctx.toNat → c.ctx.toNat ≤ 511 →
    let count := fun (m : Memory 16) (v : Bool) => (Memory.read m (cntAddr r c.ctx.toNat v)).toNat
    let u := c.update r y
    (count c.cnt y < 65534 →
      count u.cnt y = count c.cnt y + 1 ∧ count u.cnt (!y) = count c.cnt (!y)) ∧
    (count c.cnt y = 65534 →
      count u.cnt y = 32767 ∧ count u.cnt (!y) = count c.cnt (!y) / 2) ∧
    (∀ a, (∀ v, a ≠ cntAddr r c.ctx.toNat v) → Memory.read u.cnt a = Memory.read c.cnt a) ∧
    (c.ctx.toNat < 256 → u.ctx.toNat = 2 * c.ctx.toNat + y.toNat ∧ u.pos = c.pos) ∧
    (256 ≤ c.ctx.toNat → u.ctx = 1 ∧ u.pos = c.pos + 1) ∧
    u.low = c.low ∧ u.high = c.high ∧ u.xval = c.xval ∧ u.cpos = c.cpos

/-- 44_arithmetic_coder.md R281, R292: `ACINIT`, both directions; the decoder has then requested four bytes. -/
def Obligations.AcinitStartsTheCoder : Prop :=
  (∀ (dir : Dir) (s : State),
    exec (.acinit dir) s = .next (Reference.acinit dir (Reference.accepted s))) ∧
  (∀ s : State, ∃ t, exec (.acinit .decode) s = .next t ∧ t.acMode = .decoding ∧ t.ac.cpos = 4)

/-- 44_arithmetic_coder.md R286, 60_exceptions.md R362: `ACENCB`, its renormalisation stopped where `CODE`
has no room. -/
def Obligations.AcencbCodesOneDecision : Prop :=
  ∀ (y : Bool) (s : State), s.acMode = .encoding → s.ac.low.toNat ≤ s.ac.high.toNat →
    exec (.acencb y) s = .next (Reference.acencb y (Reference.accepted s)).state

/-- 44_arithmetic_coder.md R287: `ACDECB`. -/
def Obligations.AcdecbDecodesOneDecision : Prop :=
  ∀ s : State, s.acMode = .decoding → s.ac.low.toNat ≤ s.ac.high.toNat →
    exec .acdecb s = .next (Reference.acdecb (Reference.accepted s))

/-- 44_arithmetic_coder.md R290: `ACFLUSH` appends the four bytes of `LOW`, most significant first, and
leaves the mode idle; nothing else changes. -/
def Obligations.AcflushAppendsLow : Prop :=
  ∀ s : State, s.acMode = .encoding → s.hasRoom .code 4 → ∃ code : Buffer,
    exec .acflush s = .next
      { s with code := code, acMode := .idle, lastErr := 0, errInfo := 0 } ∧
    code.bytes = s.code.bytes ++
      [s.ac.low.extractLsb' 24 8, s.ac.low.extractLsb' 16 8, s.ac.low.extractLsb' 8 8,
       s.ac.low.extractLsb' 0 8]

/-- 44_arithmetic_coder.md R288, 60_exceptions.md R362: `ACENC` codes the symbol sequence of `PLAIN`,
decision by decision, stopped where `CODE` has no room. -/
def Obligations.AcencCodesTheSymbolSequence : Prop :=
  ∀ s : State, exec .acenc s = .next (Reference.acenc (Reference.accepted s)).state

/-- 44_arithmetic_coder.md R289, 60_exceptions.md R362: `ACDEC` always ends, and what it leaves is what the
rule's loop leaves, byte after byte, on every code stream, whoever made it: the bytes decoded stay in `PLAIN`
and `RES` is the last decision, whether the loop ended at the terminal flag, at ACInputExhausted or at a full
`PLAIN`. With `PLAIN` unbounded it ends idle, with nothing raised or with ACInputExhausted. The bound on
`CODE_LEN` is the model's: R9 gives it for `IN_LEN` only (assumption log 21). -/
def Obligations.AcdecAlwaysEnds : Prop :=
  ∀ s : State, s.code.len ≤ 2 ^ 28 - 2 ^ 12 →
    ∃ t, exec .acdec s = .next t ∧
      Reference.loopGives Reference.acdecTurn (fun u => { u with acMode := .idle })
        (Reference.acinit .decode (Reference.accepted s)) t ∧
      (s.cfg.plainCap = none → t.acMode = .idle ∧
        (t.lastErr = 0 ∨ t.lastErr = 11 ∧ t.errInfo = t.ac.cpos.setWidth 32 ∧
          s.code.len < t.ac.cpos.toNat)) ∧
      unchangedBut (writes .acdec) s t

/-- 44_arithmetic_coder.md R291 (an inference of the spec, "[derived: …]"): what `ACENC` codes, `ACDEC`
decodes, under every model, region count, `region_of` and plain stream. The bound on `CODE_LEN` is the
model's (assumption log 21). -/
def Obligations.DecodeInvertsEncode : Prop :=
  ∀ s t : State, s.cfg.plainCap = none → s.cfg.codeCap = none →
    exec .acenc s = .next t → t.code.len ≤ 2 ^ 28 - 2 ^ 12 →
    ∃ u, exec .acdec t = .next u ∧ u.plain.bytes = s.plain.bytes ∧
      u.ac.cpos.toNat = t.code.len ∧ u.lastErr = 0

/-! ## The container and the orchestrator -/

/-- 45_container_orchestrator.md R321, 30_encoding.md R128: `SER` replaces `PLAIN` by the samples, granule,
channel, index, high byte first; nothing else changes. -/
def Obligations.SerSerialisesTheSamples : Prop :=
  ∀ s : State, s.hValid = true → s.hdr.channels = 1 ∨ s.hdr.channels = 2 →
    (∀ c, s.cfg.plainCap = some c → 2304 * s.hdr.channels.toNat ≤ c) →
    ∃ plain : Buffer,
      exec .ser s = .next { s with plain := plain, lastErr := 0, errInfo := 0 } ∧
      plain.bytes = Reference.plainStream s.samp s.hdr.channels.toNat

/-- 45_container_orchestrator.md R323, 30_encoding.md R130, 60_exceptions.md R362, R363: `EMIT` is the
pseudocode, stopped where a buffer has no room; with unbounded buffers it serialises, codes and appends one
container frame, or records PayloadOverflow and appends nothing. -/
def Obligations.EmitAppendsOneContainerFrame : Prop :=
  ∀ s : State, s.hValid = true → s.siValid = true → s.hdr.channels = 1 ∨ s.hdr.channels = 2 →
    exec .emit s = .next (Reference.emit (Reference.accepted s)).state ∧
    (s.unbounded → ∃ (t : State) (plain : Buffer), exec .emit s = .next t ∧
      plain.bytes = Reference.plainStream s.samp s.hdr.channels.toNat ∧
      t.plain = plain ∧
      t.code = (Reference.acenc { s with plain := plain }).state.code ∧
      t.acMode = .idle ∧
      (t.code.len ≤ 65535 →
        t.obuf.bytes = s.obuf.bytes ++ Reference.containerFrame s t.code.bytes ∧
        t.frames = s.frames + 1) ∧
      (65535 < t.code.len →
        t.obuf = s.obuf ∧ t.frames = s.frames ∧ t.lastErr = 10 ∧ t.errInfo = s.foff.setWidth 32) ∧
      unchangedBut (writes .emit) s t)

/-- 45_container_orchestrator.md R326: the ways `FRAME` emits nothing: the end of the input, an invalid
header stepped over by one byte, a valid header that is not MPEG-1 Layer III stepped over by its frame. -/
def Obligations.FrameStepsOverWhatItCannotDecode : Prop :=
  ∀ s : State,
    let h := Reference.hdr (Reference.accepted s)
    (s.ibuf.len ≤ s.foff.toNat + 4 →
      exec .frame s = .next { s with done := true, lastErr := 0, errInfo := 0 }) ∧
    (s.foff.toNat + 4 < s.ibuf.len → h.hValid = false →
      exec .frame s = .next
        { h with foff := s.foff + 1, skipped := s.skipped + 1, ring := [] }) ∧
    (s.foff.toNat + 4 < s.ibuf.len → h.hValid = true → ¬ (h.hdr.version = 3 ∧ h.hdr.layer = 3) →
      exec .frame s = .next
        { raise .unsupportedFrame s.foff.toNat h with
          foff := s.foff + h.hdr.frameSize.setWidth 28
          skipped := s.skipped + 1
          ring := []
          hValid := false })

/-- 45_container_orchestrator.md R326, 60_exceptions.md R362: `FRAME` is the rule's pseudocode on every
state: `HDR`, `SIDE`, the zeroed memories, `RESV`, then `SCF` and `SPEC` for each granule and channel in
order until a code word fails, `EMIT`, `ADV`. So with unbounded buffers a supported frame is emitted, in full
or fail-soft, and stepped over: the samples and `NZC` are those decoded, `CODE` is the coding of the samples'
bytes, `OBUF` gains one container frame with the frame's own header and side information (unless the payload
does not fit), its size enters the history, `FOFF` stands behind it, the valid bits are 0. -/
def Obligations.FrameEmitsASupportedFrame : Prop :=
  (∀ s : State, exec .frame s = .next (Reference.frame (Reference.accepted s)).state) ∧
  ∀ s : State,
    let h := Reference.hdr (Reference.accepted s)
    let d := Reference.decodeFrame h
    let e := (Reference.emit d).state
    s.foff.toNat + 4 < s.ibuf.len → h.hValid = true → h.hdr.version = 3 → h.hdr.layer = 3 →
    s.unbounded →
    ∃ t, exec .frame s = .next t ∧
      t.samp = d.samp ∧ t.si = d.si ∧
      t.plain.bytes = Reference.plainStream d.samp h.hdr.channels.toNat ∧
      t.code = (Reference.acenc { d with plain := t.plain }).state.code ∧
      (t.code.len ≤ 65535 →
        t.obuf.bytes = s.obuf.bytes ++ Reference.containerFrame h t.code.bytes ∧
        t.frames = s.frames + 1) ∧
      (65535 < t.code.len → t.obuf = s.obuf ∧ t.frames = s.frames) ∧
      t.err = e.err ∧ t.lastErr = e.lastErr ∧ t.errInfo = e.errInfo ∧
      t.hdr = h.hdr ∧
      t.foff = s.foff + h.hdr.frameSize.setWidth 28 ∧
      t.ring = (h.hdr.frameSize :: s.ring).take 9 ∧
      t.hValid = false ∧ t.siValid = false ∧ t.mdValid = false ∧
      t.skipped = s.skipped ∧ t.done = s.done

/-- 45_container_orchestrator.md R327: what `FRAME` appends to `OBUF` depends on nothing but the input, the
position in it, the history, the coder configuration and the tables: no stale sample, scale factor, coder
register or side information can reach it. -/
def Obligations.FrameOutputIgnoresStaleState : Prop :=
  ∀ s s' t t' : State, s'.ibuf = s.ibuf → s'.foff = s.foff → s'.ring = s.ring →
    s'.cfgModel = s.cfgModel → s'.cfgNreg = s.cfgNreg → s'.cfg = s.cfg → s'.obuf = s.obuf →
    exec .frame s = .next t → exec .frame s' = .next t' →
    t'.obuf = t.obuf ∧ t'.foff = t.foff ∧ t'.ring = t.ring

/-- 45_container_orchestrator.md R328, 60_exceptions.md R357, R358, R362: `RUN` ends on every input of a
legal length, and what it leaves is what the rule leaves: `SINIT`, then EmptyInput on an empty input, else
`FRAME` after `FRAME` while more than 4 bytes remain, NoFrames if none was emitted, `DONE`; or the state in
which a CapacityFault stopped a `FRAME`. With unbounded buffers `DONE` is set, `FOFF` at most 4 bytes before
the end, and NoFrames is recorded exactly when no frame was emitted from a non-empty input. -/
def Obligations.RunAlwaysEnds : Prop :=
  ∀ s : State, s.inputFits → frameSizesPositive s.cfg →
    let u := Reference.sinit (Reference.accepted s)
    ∃ t, exec .run s = .next t ∧
      (s.ibuf.len = 0 → t = { raise .emptyInput 0 u with done := true }) ∧
      (0 < s.ibuf.len → Reference.loopGives Reference.runTurn Reference.runEnd u t) ∧
      (s.unbounded → t.done = true ∧
        (s.ibuf.len = 0 → t.lastErr = 5 ∧ t.errInfo = 0 ∧ t.obuf.len = 0 ∧ t.frames = 0) ∧
        (0 < s.ibuf.len → s.ibuf.len ≤ t.foff.toNat + 4) ∧
        (0 < s.ibuf.len → t.frames = 0 → t.lastErr = 6 ∧ t.errInfo = t.foff.setWidth 32) ∧
        (0 < s.ibuf.len → t.frames ≠ 0 → t.lastErr ≠ 6)) ∧
      unchangedBut (writes .run) s t

/-! ## What each command leaves unchanged -/

/-- The "Writes" lines of R160 to R165 and R182 to R216: a control or parser command changes nothing but
the parts its rule names; a soft reset keeps the input, its offset and the configuration. -/
def Obligations.ControlAndParserFrames : Prop :=
  ∀ s t : State,
    (exec .nop s = .next t → unchangedBut (writes .nop) s t) ∧
    (exec .srst s = .next t → unchangedBut (writes .srst) s t) ∧
    (exec .clrerr s = .next t → unchangedBut (writes .clrerr) s t) ∧
    (exec .sinit s = .next t → unchangedBut (writes .sinit) s t) ∧
    (∀ b adv len, exec (.rdbits b adv len) s = .next t →
      unchangedBut (writes (.rdbits b adv len)) s t) ∧
    (exec .hdr s = .next t → unchangedBut (writes .hdr) s t) ∧
    (exec .side s = .next t → unchangedBut (writes .side) s t) ∧
    (exec .resv s = .next t → unchangedBut (writes .resv) s t) ∧
    (∀ gr ch, exec (.scf gr ch) s = .next t → unchangedBut (writes (.scf gr ch)) s t) ∧
    (exec .adv s = .next t → unchangedBut (writes .adv) s t)

/-- The "Writes" lines of R235, R238 and R240: a spectrum command changes nothing but the parts its rule
names, and of the sample memory nothing but its own samples: two or four from `IDX` on, or the granule. -/
def Obligations.SpectrumFrames : Prop :=
  ∀ (s t : State) (gr ch : Fin 2),
    (∀ tbl, exec (.hufpair gr ch tbl) s = .next t →
      unchangedBut (writes (.hufpair gr ch tbl)) s t ∧
      ∀ a, a ≠ sampAddr gr ch s.idx.toNat → a ≠ sampAddr gr ch (s.idx.toNat + 1) →
        Memory.read t.samp a = Memory.read s.samp a) ∧
    (∀ sel, exec (.hufquad gr ch sel) s = .next t →
      unchangedBut (writes (.hufquad gr ch sel)) s t ∧
      ∀ a, (∀ j < 4, a ≠ sampAddr gr ch (s.idx.toNat + j)) →
        Memory.read t.samp a = Memory.read s.samp a) ∧
    (exec (.spec gr ch) s = .next t →
      unchangedBut (writes (.spec gr ch)) s t ∧
      ∀ a, (∀ i < 576, a ≠ sampAddr gr ch i) → Memory.read t.samp a = Memory.read s.samp a)

/-- The "Writes" lines of R281 and R286 to R290: a coder command changes nothing but the parts its rule
names; `ACENCB` and `ACFLUSH` leave every byte of `CODE` that was there. -/
def Obligations.CoderFrames : Prop :=
  ∀ s t : State,
    (∀ dir, exec (.acinit dir) s = .next t → unchangedBut (writes (.acinit dir)) s t) ∧
    (∀ y, exec (.acencb y) s = .next t → unchangedBut (writes (.acencb y)) s t ∧
      s.code.len ≤ t.code.len ∧ t.code.len ≤ s.code.len + 4 ∧
      ∀ a < s.code.len, t.code.read a = s.code.read a) ∧
    (exec .acdecb s = .next t → unchangedBut (writes .acdecb) s t) ∧
    (exec .acflush s = .next t → unchangedBut (writes .acflush) s t ∧
      s.code.len ≤ t.code.len ∧ t.code.len ≤ s.code.len + 4 ∧
      ∀ a < s.code.len, t.code.read a = s.code.read a) ∧
    (exec .acenc s = .next t → unchangedBut (writes .acenc) s t) ∧
    (exec .acdec s = .next t → unchangedBut (writes .acdec) s t)

/-- The "Writes" lines of R321, R323, R326 and R328: a container command changes nothing but the parts its
rule names; `EMIT` and `FRAME` leave every byte of `OBUF` that was there; none of them changes the input,
the configuration or `RES`. -/
def Obligations.ContainerFrames : Prop :=
  ∀ s t : State,
    (exec .ser s = .next t → unchangedBut (writes .ser) s t) ∧
    (exec .emit s = .next t → unchangedBut (writes .emit) s t ∧
      s.obuf.len ≤ t.obuf.len ∧ ∀ a < s.obuf.len, t.obuf.read a = s.obuf.read a) ∧
    (exec .frame s = .next t → unchangedBut (writes .frame) s t ∧
      s.obuf.len ≤ t.obuf.len ∧ ∀ a < s.obuf.len, t.obuf.read a = s.obuf.read a) ∧
    (exec .run s = .next t → unchangedBut (writes .run) s t)

/-! ## Invariants of every step -/

/-- 20_memory.md R80, R88: every step keeps every buffer and every internal memory, the counts included, in
its canonical form and inside its declared range: no command writes outside a memory. R82, 00_scope.md R6:
with the default tables no step leaves more than `MD_CAP = 2048` bytes in `MDBUF`. -/
def Obligations.StepKeepsMemoryForm : Prop :=
  (∀ s t : State, s.MemWf → step s = .next t → t.MemWf) ∧
  (∀ s t : State, s.cfg = Config.default → s.MdbufFits → step s = .next t →
    t.cfg = Config.default ∧ t.MdbufFits)

/-- 41_frame_parser.md R180: every step keeps "`MD_VALID = 1` implies `SI_VALID = 1` implies
`H_VALID = 1`". -/
def Obligations.StepKeepsValidChain : Prop :=
  ∀ s t : State, s.ValidChain → step s = .next t → t.ValidChain

/-- 44_arithmetic_coder.md R292: every step keeps the coder's invariants, `CODE` being unbounded (a
CapacityFault stops `ACENCB` inside its renormalisation, 60_exceptions.md R362); and that at least four bytes
have been requested while decoding, as long as `CPOS` has room to count (the model's bound, assumption
log 21). -/
def Obligations.StepKeepsCoderInvariant : Prop :=
  (∀ s t : State, s.cfg.codeCap = none → s.CoderOk → step s = .next t →
    t.cfg.codeCap = none ∧ t.CoderOk) ∧
  (∀ s t : State, s.codeFits → s.CposOk → step s = .next t → t.CposOk)

/-- 10_state.md R25, R28, R38, R40, R42: every step keeps the registers in their legal values. -/
def Obligations.StepKeepsLegalRegisters : Prop :=
  ∀ s t : State, s.RegsLegal → step s = .next t → t.RegsLegal

/-- 10_state.md R24, 41_frame_parser.md R180: while `H_VALID` (`SI_VALID`) is 1 the header (side
information) registers describe the frame at `FOFF`, whatever the host and the commands do. -/
def Obligations.StepKeepsFrameDescription : Prop :=
  ∀ s t : State, s.ValidChain → s.DescribesFrame → step s = .next t → t.DescribesFrame

/-- The invariants hold at reset. -/
def Obligations.InvariantsHoldAtReset : Prop :=
  State.reset.MemWf ∧ State.reset.MdbufFits ∧ State.reset.ValidChain ∧ State.reset.CoderOk ∧
    State.reset.CposOk ∧ State.reset.RegsLegal ∧ State.reset.DescribesFrame ∧ State.reset.SamplesInRange

/-! ## The host's access -/

/-- 10_state.md R21, R28, R31, 20_memory.md R81, 70_reset_and_hazards.md R403: what the host's writes and
loads do: a writable register takes the value cut to its width (`CFG_NREG` its legal value), `FOFF` and a
load of `IBUF` clear the valid bits, every other register number is ignored, a load of `IBUF`, `PLAIN` or
`CODE` makes that buffer exactly the given bytes and touches nothing else. That a load beyond the capacity,
which R97 forbids the host, is refused is the model's choice (assumption log 7). -/
def Obligations.HostWritesWhatItMay : Prop :=
  (∀ (s : State) (rest : List HostOp) (n : Nat) (v : Word), s.host = .regWrite n v :: rest → n ≠ 0 →
    step s = .next
      (let u := { s with host := rest }
       if n = 0x05 then { u with cfgModel := v.setWidth 1 }
       else if n = 0x06 then
         { u with cfgNreg := BitVec.ofNat 6 (if v.toNat = 0 then 1 else min v.toNat 32) }
       else if n = 0x07 then { u with startOff := v.setWidth 28 }
       else if n = 0x09 then
         { u with foff := v.setWidth 28, hValid := false, siValid := false, mdValid := false }
       else if n = 0x0A then { u with cur := v }
       else if n = 0x0C then { u with idx := v.setWidth 10 }
       else if n = 0x0D then { u with p2start := v }
       else u)) ∧
  (∀ (s : State) (rest : List HostOp) (bytes : List Byte) (op : HostOp) (b : BufId),
    (op = .loadIbuf bytes ∧ b = .ibuf) ∨ (op = .loadPlain bytes ∧ b = .plain) ∨
      (op = .loadCode bytes ∧ b = .code) →
    s.host = op :: rest →
    let u : State := { s with host := rest }
    ((∀ c, s.cap b = some c → bytes.length ≤ c) →
      ∃ loaded : Buffer, loaded.bytes = bytes ∧ loaded.len = bytes.length ∧
        step s = .next
          (if b = .ibuf then { u with ibuf := loaded, hValid := false, siValid := false, mdValid := false }
           else if b = .plain then { u with plain := loaded }
           else { u with code := loaded })) ∧
    (∀ c, s.cap b = some c → c < bytes.length → step s = .refused .bufLoadOverCapacity))

/-- 10_state.md R21, R24, R25, R30, R37 to R45, R60, 20_memory.md R81: what the host's reads return: every
register of the map R60 zero-extended, 0 for every number that is not in it, `STATUS` bit by bit, buffer bytes
and memory elements by index, 0 beyond a length or an index range; a read changes nothing. A length register
reads a length modulo 2^28 (DESIGN CHOICE, assumption log 6). -/
def Obligations.HostReadsChangeNothing : Prop :=
  ∀ (s : State) (rest : List HostOp),
    let told := fun ws => ({ s with host := rest, readout := ws } : State)
    (∀ n, s.host = .regRead n :: rest → step s = .next (told [s.regRead n])) ∧
    (∀ r ∈ Reference.registerMap s, s.regRead r.1 = BitVec.ofNat 32 r.2) ∧
    (∀ n, (∀ r ∈ Reference.registerMap s, r.1 ≠ n) → s.regRead n = 0) ∧
    (∀ k, (s.regRead 0x01).getLsbD k =
      (decide (k = 0) && s.done || decide (k = 1) && s.hValid || decide (k = 2) && s.siValid ||
        decide (k = 3) && s.mdValid || decide (k = 4) && decide (s.acMode = .encoding) ||
        decide (k = 5) && decide (s.acMode = .decoding))) ∧
    (∀ b a n, s.host = .bufRead b a n :: rest → ∃ ws : List Word,
      step s = .next (told ws) ∧ ws.length = n ∧
      ∀ i < n, ws[i]? = some (if a + i < (s.buf b).len then ((s.buf b).read (a + i)).setWidth 32 else 0)) ∧
    (∀ gr ch i, s.host = .sampRead gr ch i :: rest →
      step s = .next (told [if gr < 2 ∧ ch < 2 ∧ i < 576 then
        (Memory.read s.samp ((2 * gr + ch) * 576 + i)).setWidth 32 else 0])) ∧
    (∀ gr ch sfb, s.host = .scfLRead gr ch sfb :: rest →
      step s = .next (told [if gr < 2 ∧ ch < 2 ∧ sfb < 21 then
        (Memory.read s.scfL ((2 * gr + ch) * 21 + sfb)).setWidth 32 else 0])) ∧
    (∀ gr ch win sfb, s.host = .scfSRead gr ch win sfb :: rest →
      step s = .next (told [if gr < 2 ∧ ch < 2 ∧ win < 3 ∧ sfb < 13 then
        (Memory.read s.scfS ((2 * gr + ch) * 39 + win * 13 + sfb)).setWidth 32 else 0])) ∧
    (∀ r c y, s.host = .cntRead r c y :: rest →
      step s = .next (told [if r < 32 ∧ c < 512 ∧ y < 2 then
        (Memory.read s.ac.cnt ((r * 512 + c) * 2 + y)).setWidth 32 else 0]))
end

