-- ==== Sys2Proof/Laws/Memory.lean ====
section
/-! SUPPORT. The laws of memories and buffers: what a read gives after each operation, in every list of
cells, and that every operation keeps the canonical form. -/

namespace Sys2Proof.Machine

variable {w : Nat}

@[simp] theorem Memory.read_nil (k : Nat) : Memory.read ([] : Memory w) k = 0 := rfl

theorem Memory.read_cons (a : Nat) (v : BitVec w) (m : Memory w) (k : Nat) :
    Memory.read ((a, v) :: m) k = if k = a then v else Memory.read m k := rfl

theorem Memory.read_insert (m : Memory w) (k j : Nat) (v : BitVec w) :
    (∀ p ∈ m, p.1 ≠ k) →
      Memory.read (Memory.insert k v m) j = if j = k then v else Memory.read m j := by
  induction m with
  | nil => intro _; simp [Memory.insert, Memory.read_cons]
  | cons p m ih =>
    obtain ⟨a, x⟩ := p
    intro h
    have ha : a ≠ k := h (a, x) (by simp)
    have ht : ∀ p ∈ m, p.1 ≠ k := fun p hp => h p (by simp [hp])
    unfold Memory.insert
    split
    · simp [Memory.read_cons]
    · rw [Memory.read_cons, Memory.read_cons, ih ht]
      by_cases hj : j = a
      · subst hj; simp [ha]
      · simp [hj]

theorem Memory.read_clear (m : Memory w) (lo hi j : Nat) :
    Memory.read (Memory.clear m lo hi) j = if lo ≤ j ∧ j < hi then 0 else Memory.read m j := by
  induction m with
  | nil => simp [Memory.clear]
  | cons p m ih =>
    obtain ⟨a, x⟩ := p
    simp only [Memory.clear] at ih ⊢
    by_cases ha : lo ≤ a ∧ a < hi
    · simp only [List.filter_cons, ha, decide_true, Bool.and_self, Bool.not_true, Bool.false_eq_true, if_false]
      rw [ih, Memory.read_cons]
      by_cases hj : j = a
      · subst hj; simp [ha]
      · simp [hj]
    · have hd : (!(decide (lo ≤ a) && decide (a < hi))) = true := by
        simp only [Bool.not_eq_true', Bool.and_eq_false_iff, decide_eq_false_iff_not]
        omega
      simp only [List.filter_cons, hd, if_true, Memory.read_cons]
      rw [ih]
      by_cases hj : j = a
      · subst hj; simp [ha]
      · simp [hj]

theorem Memory.mem_clear {m : Memory w} {lo hi : Nat} {p : Nat × BitVec w} :
    p ∈ Memory.clear m lo hi ↔ p ∈ m ∧ ¬(lo ≤ p.1 ∧ p.1 < hi) := by
  simp [Memory.clear, List.mem_filter, not_and, imp_iff_not_or]

/-- A read after a write, in every memory: the written address gives the value, every other address what
it gave. -/
@[simp] theorem Memory.read_write (m : Memory w) (k j : Nat) (v : BitVec w) :
    Memory.read (Memory.write m k v) j = if j = k then v else Memory.read m j := by
  unfold Memory.write
  split
  · rename_i hv
    rw [Memory.read_clear]
    by_cases hj : j = k
    · subst hj; simp [hv]
    · rw [if_neg (by omega), if_neg hj]
  · rw [Memory.read_insert]
    · rw [Memory.read_clear]
      by_cases hj : j = k
      · simp [hj]
      · rw [if_neg hj, if_neg (by omega), if_neg hj]
    · intro p hp
      have := (Memory.mem_clear.mp hp).2
      omega

/-- An address that no write of a list names reads as before. -/
theorem Memory.read_writeAll_of_not_mem (kvs : List (Nat × BitVec w)) (m : Memory w) (j : Nat)
    (h : ∀ kv ∈ kvs, kv.1 ≠ j) : Memory.read (Memory.writeAll m kvs) j = Memory.read m j := by
  unfold Memory.writeAll
  induction kvs generalizing m with
  | nil => rfl
  | cons kv kvs ih =>
    rw [List.foldl_cons, ih _ (fun p hp => h p (by simp [hp])), Memory.read_write]
    simp [Ne.symm (h kv (by simp))]

theorem Memory.writeAll_nil (m : Memory w) : Memory.writeAll m [] = m := rfl

theorem Memory.writeAll_cons (m : Memory w) (kv : Nat × BitVec w) (kvs : List (Nat × BitVec w)) :
    Memory.writeAll m (kv :: kvs) = Memory.writeAll (Memory.write m kv.1 kv.2) kvs := rfl

/-- An address that exactly one write of a list names reads the value of that write. -/
theorem Memory.read_writeAll_of_mem (kvs : List (Nat × BitVec w)) (m : Memory w) (k : Nat) (v : BitVec w)
    (hm : (k, v) ∈ kvs) (hu : ∀ kv ∈ kvs, kv.1 = k → kv.2 = v) :
    Memory.read (Memory.writeAll m kvs) k = v := by
  induction kvs generalizing m with
  | nil => simp at hm
  | cons kv kvs ih =>
    rw [Memory.writeAll_cons]
    by_cases hin : (k, v) ∈ kvs
    · exact ih _ hin (fun p hp => hu p (by simp [hp]))
    · have hkv : kv = (k, v) := by
        rcases List.mem_cons.mp hm with h | h
        · exact h.symm
        · exact absurd h hin
      rw [Memory.read_writeAll_of_not_mem, Memory.read_write, hkv]
      · simp
      · intro p hp hpk
        have : p.2 = v := hu p (by simp [hp]) hpk
        exact hin (by rw [← this, ← hpk]; exact hp)

/-! ## The canonical form -/

theorem Memory.wfFrom_cons (hi lo a : Nat) (v : BitVec w) (m : Memory w) :
    Memory.wfFrom hi lo ((a, v) :: m) = true ↔
      lo ≤ a ∧ a < hi ∧ v ≠ 0 ∧ Memory.wfFrom hi (a + 1) m = true := by
  simp [Memory.wfFrom, and_assoc]

theorem Memory.wfFrom_mono {hi hi' lo lo' : Nat} {m : Memory w} (h : Memory.wfFrom hi lo m = true)
    (hlo : lo' ≤ lo) (hhi : hi ≤ hi') : Memory.wfFrom hi' lo' m = true := by
  induction m generalizing lo lo' with
  | nil => rfl
  | cons p m ih =>
    obtain ⟨a, v⟩ := p
    rw [Memory.wfFrom_cons] at h ⊢
    exact ⟨by omega, by omega, h.2.2.1, ih h.2.2.2 (Nat.le_refl _)⟩

theorem Memory.wfFrom_clear {hi lo : Nat} {m : Memory w} (a b : Nat)
    (h : Memory.wfFrom hi lo m = true) : Memory.wfFrom hi lo (Memory.clear m a b) = true := by
  induction m generalizing lo with
  | nil => rfl
  | cons p m ih =>
    obtain ⟨k, v⟩ := p
    rw [Memory.wfFrom_cons] at h
    have ht := ih h.2.2.2
    by_cases hd : (!(decide (a ≤ k) && decide (k < b))) = true
    · have hc : Memory.clear ((k, v) :: m) a b = (k, v) :: Memory.clear m a b := by
        simp only [Memory.clear, List.filter_cons, hd, if_true]
      rw [hc, Memory.wfFrom_cons]
      exact ⟨h.1, h.2.1, h.2.2.1, ht⟩
    · have hc : Memory.clear ((k, v) :: m) a b = Memory.clear m a b := by
        simp only [Memory.clear, List.filter_cons, hd]
        simp
      rw [hc]
      exact Memory.wfFrom_mono ht (by omega) (Nat.le_refl _)

theorem Memory.wfFrom_insert {hi lo k : Nat} {v : BitVec w} {m : Memory w}
    (h : Memory.wfFrom hi lo m = true) (hlo : lo ≤ k) (hk : k < hi) (hv : v ≠ 0)
    (hn : ∀ p ∈ m, p.1 ≠ k) : Memory.wfFrom hi lo (Memory.insert k v m) = true := by
  induction m generalizing lo with
  | nil =>
    rw [Memory.insert, Memory.wfFrom_cons]
    exact ⟨hlo, hk, hv, rfl⟩
  | cons p m ih =>
    obtain ⟨a, x⟩ := p
    rw [Memory.wfFrom_cons] at h
    have ha : a ≠ k := hn (a, x) (by simp)
    unfold Memory.insert
    split
    · rw [Memory.wfFrom_cons, Memory.wfFrom_cons]
      exact ⟨hlo, hk, hv, by omega, h.2.1, h.2.2.1, h.2.2.2⟩
    · rw [Memory.wfFrom_cons]
      exact ⟨h.1, h.2.1, h.2.2.1, ih h.2.2.2 (by omega) (fun p hp => hn p (by simp [hp]))⟩

/-- Every memory operation keeps the canonical form: a clear. -/
theorem Memory.wf_clear {n : Nat} {m : Memory w} (a b : Nat) (h : Memory.wf n m = true) :
    Memory.wf n (Memory.clear m a b) = true := Memory.wfFrom_clear a b h

/-- Every memory operation keeps the canonical form: a write below the memory's size. -/
theorem Memory.wf_write {n : Nat} {m : Memory w} {k : Nat} (v : BitVec w) (h : Memory.wf n m = true)
    (hk : k < n) : Memory.wf n (Memory.write m k v) = true := by
  unfold Memory.write
  split
  · exact Memory.wf_clear _ _ h
  · rename_i hv
    exact Memory.wfFrom_insert (Memory.wf_clear _ _ h) (Nat.zero_le _) hk hv
      (fun p hp => by have := (Memory.mem_clear.mp hp).2; omega)

/-- Every memory operation keeps the canonical form: a list of writes below the memory's size. -/
theorem Memory.wf_writeAll {n : Nat} {m : Memory w} (kvs : List (Nat × BitVec w))
    (h : Memory.wf n m = true) (hk : ∀ kv ∈ kvs, kv.1 < n) :
    Memory.wf n (Memory.writeAll m kvs) = true := by
  induction kvs generalizing m with
  | nil => exact h
  | cons kv kvs ih =>
    exact ih (Memory.wf_write kv.2 h (hk kv (by simp))) (fun p hp => hk p (by simp [hp]))

theorem Memory.wf_mono {n n' : Nat} {m : Memory w} (h : Memory.wf n m = true) (hn : n ≤ n') :
    Memory.wf n' m = true := Memory.wfFrom_mono h (Nat.le_refl _) hn

@[simp] theorem Memory.wf_nil (n : Nat) : Memory.wf n ([] : Memory w) = true := rfl

theorem Memory.wfFrom_ge {hi lo : Nat} {m : Memory w} (h : Memory.wfFrom hi lo m = true) :
    ∀ p ∈ m, lo ≤ p.1 := by
  induction m generalizing lo with
  | nil => simp
  | cons q m ih =>
    obtain ⟨a, v⟩ := q
    rw [Memory.wfFrom_cons] at h
    intro p hp
    rcases List.mem_cons.mp hp with rfl | hp
    · exact h.1
    · have := ih h.2.2.2 p hp; omega

theorem Memory.read_of_lt {hi lo k : Nat} {m : Memory w} (h : Memory.wfFrom hi lo m = true)
    (hk : k < lo) : Memory.read m k = 0 := by
  induction m generalizing lo with
  | nil => rfl
  | cons q m ih =>
    obtain ⟨a, v⟩ := q
    rw [Memory.wfFrom_cons] at h
    rw [Memory.read_cons, if_neg (by omega)]
    exact ih h.2.2.2 (by omega)

/-- Two canonical memories that read the same everywhere are the same list. -/
theorem Memory.ext_of_wf {hi hi' lo lo' : Nat} {m m' : Memory w} (h : Memory.wfFrom hi lo m = true)
    (h' : Memory.wfFrom hi' lo' m' = true) (he : ∀ k, Memory.read m k = Memory.read m' k) : m = m' := by
  induction m generalizing m' lo lo' with
  | nil =>
    cases m' with
    | nil => rfl
    | cons q m' =>
      obtain ⟨a, v⟩ := q
      rw [Memory.wfFrom_cons] at h'
      have := he a
      rw [Memory.read_cons, if_pos rfl] at this
      exact absurd this.symm h'.2.2.1
  | cons q m ih =>
    obtain ⟨a, v⟩ := q
    rw [Memory.wfFrom_cons] at h
    cases m' with
    | nil =>
      have := he a
      rw [Memory.read_cons, if_pos rfl] at this
      exact absurd this h.2.2.1
    | cons q' m' =>
      obtain ⟨a', v'⟩ := q'
      rw [Memory.wfFrom_cons] at h'
      have h1 := he a
      have h2 := he a'
      rw [Memory.read_cons, if_pos rfl, Memory.read_cons] at h1
      rw [Memory.read_cons, Memory.read_cons, if_pos rfl] at h2
      have haa : a = a' := by
        by_contra hne
        rw [if_neg hne] at h1
        rw [if_neg (Ne.symm hne)] at h2
        rcases Nat.lt_or_gt_of_ne hne with hl | hl
        · exact h.2.2.1 (h1.trans (Memory.read_of_lt h'.2.2.2 (by omega)))
        · exact h'.2.2.1 (h2.symm.trans (Memory.read_of_lt h.2.2.2 (by omega)))
      subst haa
      rw [if_pos rfl] at h1
      subst h1
      congr 1
      refine ih h.2.2.2 h'.2.2.2 (fun k => ?_)
      by_cases hk : k = a
      · subst hk
        rw [Memory.read_of_lt h.2.2.2 (Nat.lt_succ_self _), Memory.read_of_lt h'.2.2.2 (Nat.lt_succ_self _)]
      · have := he k
        rwa [Memory.read_cons, Memory.read_cons, if_neg hk, if_neg hk] at this

/-! ## Buffers -/

@[simp] theorem Buffer.empty_len : Buffer.empty.len = 0 := rfl

@[simp] theorem Buffer.read_empty (a : Nat) : Buffer.empty.read a = 0 := rfl

@[simp] theorem Buffer.append_len (b : Buffer) (v : Byte) : (b.append v).len = b.len + 1 := rfl

/-- After an append the new last byte is the value and every other byte reads as before. -/
theorem Buffer.read_append (b : Buffer) (v : Byte) (a : Nat) :
    (b.append v).read a = if a = b.len then v else b.read a := by
  unfold Buffer.read Buffer.append
  simp only [Memory.read_write]
  split_ifs <;> first | rfl | omega

theorem Buffer.read_of_ge {b : Buffer} {a : Nat} (h : b.len ≤ a) : b.read a = 0 := by
  unfold Buffer.read
  rw [if_neg (by omega)]

@[simp] theorem Buffer.ofBytes_len (vs : List Byte) : (Buffer.ofBytes vs).len = vs.length := rfl

theorem read_cellsFrom (vs : List Byte) (k a : Nat) :
    Memory.read (cellsFrom k vs) a = if k ≤ a then vs.getD (a - k) 0 else 0 := by
  induction vs generalizing k with
  | nil => simp [cellsFrom]
  | cons v vs ih =>
    have key : Memory.read (if v = 0 then cellsFrom (k + 1) vs else (k, v) :: cellsFrom (k + 1) vs) a
        = if a = k then v else Memory.read (cellsFrom (k + 1) vs) a := by
      split
      · rename_i hv
        by_cases ha : a = k
        · subst ha; simp [ih, hv]
        · simp [ha]
      · rw [Memory.read_cons]
    rw [cellsFrom, key, ih]
    by_cases ha : a = k
    · subst ha; simp
    · by_cases hk : k ≤ a
      · have h1 : k + 1 ≤ a := by omega
        have h2 : a - k = (a - (k + 1)) + 1 := by omega
        simp [ha, hk, h1, h2]
      · have h1 : ¬ k + 1 ≤ a := by omega
        simp [ha, hk, h1]

/-- `BufLoad` and `RESV`: byte `a` of a buffer made of bytes is the byte `a` of the list. -/
theorem Buffer.read_ofBytes (vs : List Byte) (a : Nat) : (Buffer.ofBytes vs).read a = vs.getD a 0 := by
  unfold Buffer.read Buffer.ofBytes
  simp only [read_cellsFrom, Nat.zero_le, if_true, Nat.sub_zero]
  split
  · rfl
  · rw [List.getD_eq_default _ _ (by omega)]

theorem wfFrom_cellsFrom (vs : List Byte) (k hi : Nat) (h : k + vs.length ≤ hi) :
    Memory.wfFrom hi k (cellsFrom k vs) = true := by
  induction vs generalizing k with
  | nil => rfl
  | cons v vs ih =>
    rw [List.length_cons] at h
    have ht := ih (k + 1) (by omega)
    unfold cellsFrom
    split
    · exact Memory.wfFrom_mono ht (by omega) (Nat.le_refl _)
    · rename_i hv
      rw [Memory.wfFrom_cons]
      exact ⟨Nat.le_refl _, by omega, hv, ht⟩

theorem Buffer.wf_ofBytes (vs : List Byte) : (Buffer.ofBytes vs).wf = true :=
  wfFrom_cellsFrom vs 0 vs.length (by omega)

@[simp] theorem Buffer.wf_empty : Buffer.empty.wf = true := rfl

theorem Buffer.wf_append {b : Buffer} (v : Byte) (h : b.wf = true) : (b.append v).wf = true :=
  Memory.wf_write v (Memory.wf_mono h (Nat.le_succ _)) (Nat.lt_succ_self _)

@[simp] theorem Buffer.slice_length (b : Buffer) (a n : Nat) : (b.slice a n).length = n := by
  simp [Buffer.slice]

theorem Buffer.slice_getD (b : Buffer) (a n i : Nat) (h : i < n) :
    (b.slice a n).getD i 0 = b.read (a + i) := by
  simp [Buffer.slice, List.getD, h]

@[simp] theorem Buffer.bytes_length (b : Buffer) : b.bytes.length = b.len := Buffer.slice_length b 0 b.len

/-- Two canonical buffers of one length that read the same below it are equal. -/
theorem Buffer.ext_of_wf {b b' : Buffer} (h : b.wf = true) (h' : b'.wf = true) (hl : b.len = b'.len)
    (he : ∀ a < b.len, b.read a = b'.read a) : b = b' := by
  obtain ⟨n, m⟩ := b
  obtain ⟨n', m'⟩ := b'
  simp only at hl
  subst hl
  congr 1
  refine Memory.ext_of_wf h h' (fun k => ?_)
  by_cases hk : k < n
  · have := he k hk
    simpa [Buffer.read, hk] using this
  · have aux : ∀ {m : Memory 8} {lo : Nat}, Memory.wfFrom n lo m = true → Memory.read m k = 0 := by
      intro m
      induction m with
      | nil => intro _ _; rfl
      | cons q m ih =>
        intro lo hw
        obtain ⟨a, v⟩ := q
        rw [Memory.wfFrom_cons] at hw
        rw [Memory.read_cons, if_neg (by omega)]
        exact ih hw.2.2.2
    rw [aux h, aux h']

theorem Buffer.bits_succ (b : Buffer) (off n : Nat) :
    b.bits off (n + 1) = 2 * b.bits off n + (b.bit (off + n)).toNat := rfl

@[simp] theorem Buffer.bits_zero (b : Buffer) (off : Nat) : b.bits off 0 = 0 := rfl

theorem Buffer.bits_lt (b : Buffer) (off n : Nat) : b.bits off n < 2 ^ n := by
  induction n with
  | zero => simp
  | succ n ih =>
    have := Bool.toNat_le (b.bit (off + n))
    rw [Buffer.bits_succ, Nat.pow_succ]
    omega

end Sys2Proof.Machine
end

