-- ==== Sys2Proof/Laws/State.lean ====
section
/-! SUPPORT. One lemma for each field and each shared update of State, so that no later proof unfolds a
record update. -/

namespace Sys2Proof.Machine

/-! ## Acceptance (30_encoding.md R110) -/

@[simp] theorem accept_lastErr (s : State) : (accept s).lastErr = 0 := rfl
@[simp] theorem accept_errInfo (s : State) : (accept s).errInfo = 0 := rfl
@[simp] theorem accept_done (s : State) : (accept s).done = s.done := rfl
@[simp] theorem accept_hValid (s : State) : (accept s).hValid = s.hValid := rfl
@[simp] theorem accept_siValid (s : State) : (accept s).siValid = s.siValid := rfl
@[simp] theorem accept_mdValid (s : State) : (accept s).mdValid = s.mdValid := rfl
@[simp] theorem accept_acMode (s : State) : (accept s).acMode = s.acMode := rfl
@[simp] theorem accept_err (s : State) : (accept s).err = s.err := rfl
@[simp] theorem accept_cfgModel (s : State) : (accept s).cfgModel = s.cfgModel := rfl
@[simp] theorem accept_cfgNreg (s : State) : (accept s).cfgNreg = s.cfgNreg := rfl
@[simp] theorem accept_startOff (s : State) : (accept s).startOff = s.startOff := rfl
@[simp] theorem accept_foff (s : State) : (accept s).foff = s.foff := rfl
@[simp] theorem accept_cur (s : State) : (accept s).cur = s.cur := rfl
@[simp] theorem accept_res (s : State) : (accept s).res = s.res := rfl
@[simp] theorem accept_idx (s : State) : (accept s).idx = s.idx := rfl
@[simp] theorem accept_p2start (s : State) : (accept s).p2start = s.p2start := rfl
@[simp] theorem accept_frames (s : State) : (accept s).frames = s.frames := rfl
@[simp] theorem accept_skipped (s : State) : (accept s).skipped = s.skipped := rfl
@[simp] theorem accept_hdr (s : State) : (accept s).hdr = s.hdr := rfl
@[simp] theorem accept_ring (s : State) : (accept s).ring = s.ring := rfl
@[simp] theorem accept_mdb (s : State) : (accept s).mdb = s.mdb := rfl
@[simp] theorem accept_siPrivate (s : State) : (accept s).siPrivate = s.siPrivate := rfl
@[simp] theorem accept_scfsi (s : State) : (accept s).scfsi = s.scfsi := rfl
@[simp] theorem accept_si (s : State) : (accept s).si = s.si := rfl
@[simp] theorem accept_scfL (s : State) : (accept s).scfL = s.scfL := rfl
@[simp] theorem accept_scfS (s : State) : (accept s).scfS = s.scfS := rfl
@[simp] theorem accept_samp (s : State) : (accept s).samp = s.samp := rfl
@[simp] theorem accept_ac (s : State) : (accept s).ac = s.ac := rfl
@[simp] theorem accept_ibuf (s : State) : (accept s).ibuf = s.ibuf := rfl
@[simp] theorem accept_mdbuf (s : State) : (accept s).mdbuf = s.mdbuf := rfl
@[simp] theorem accept_plain (s : State) : (accept s).plain = s.plain := rfl
@[simp] theorem accept_code (s : State) : (accept s).code = s.code := rfl
@[simp] theorem accept_obuf (s : State) : (accept s).obuf = s.obuf := rfl
@[simp] theorem accept_cfg (s : State) : (accept s).cfg = s.cfg := rfl
@[simp] theorem accept_host (s : State) : (accept s).host = s.host := rfl
@[simp] theorem accept_readout (s : State) : (accept s).readout = s.readout := rfl

/-! ## Recording a condition (60_exceptions.md R351) -/

@[simp] theorem raise_err (c : Cond) (n : Nat) (s : State) : (raise c n s).err = setErrBit s.err c := rfl
theorem raise_lastErr (c : Cond) (n : Nat) (s : State) :
    (raise c n s).lastErr = if latches s.lastErr c then BitVec.ofNat 4 c.code else s.lastErr := rfl
theorem raise_errInfo (c : Cond) (n : Nat) (s : State) :
    (raise c n s).errInfo = if latches s.lastErr c then BitVec.ofNat 32 n else s.errInfo := rfl
@[simp] theorem raise_done (c : Cond) (n : Nat) (s : State) : (raise c n s).done = s.done := rfl
@[simp] theorem raise_hValid (c : Cond) (n : Nat) (s : State) : (raise c n s).hValid = s.hValid := rfl
@[simp] theorem raise_siValid (c : Cond) (n : Nat) (s : State) : (raise c n s).siValid = s.siValid := rfl
@[simp] theorem raise_mdValid (c : Cond) (n : Nat) (s : State) : (raise c n s).mdValid = s.mdValid := rfl
@[simp] theorem raise_acMode (c : Cond) (n : Nat) (s : State) : (raise c n s).acMode = s.acMode := rfl
@[simp] theorem raise_cfgModel (c : Cond) (n : Nat) (s : State) : (raise c n s).cfgModel = s.cfgModel := rfl
@[simp] theorem raise_cfgNreg (c : Cond) (n : Nat) (s : State) : (raise c n s).cfgNreg = s.cfgNreg := rfl
@[simp] theorem raise_startOff (c : Cond) (n : Nat) (s : State) : (raise c n s).startOff = s.startOff := rfl
@[simp] theorem raise_foff (c : Cond) (n : Nat) (s : State) : (raise c n s).foff = s.foff := rfl
@[simp] theorem raise_cur (c : Cond) (n : Nat) (s : State) : (raise c n s).cur = s.cur := rfl
@[simp] theorem raise_res (c : Cond) (n : Nat) (s : State) : (raise c n s).res = s.res := rfl
@[simp] theorem raise_idx (c : Cond) (n : Nat) (s : State) : (raise c n s).idx = s.idx := rfl
@[simp] theorem raise_p2start (c : Cond) (n : Nat) (s : State) : (raise c n s).p2start = s.p2start := rfl
@[simp] theorem raise_frames (c : Cond) (n : Nat) (s : State) : (raise c n s).frames = s.frames := rfl
@[simp] theorem raise_skipped (c : Cond) (n : Nat) (s : State) : (raise c n s).skipped = s.skipped := rfl
@[simp] theorem raise_hdr (c : Cond) (n : Nat) (s : State) : (raise c n s).hdr = s.hdr := rfl
@[simp] theorem raise_ring (c : Cond) (n : Nat) (s : State) : (raise c n s).ring = s.ring := rfl
@[simp] theorem raise_mdb (c : Cond) (n : Nat) (s : State) : (raise c n s).mdb = s.mdb := rfl
@[simp] theorem raise_siPrivate (c : Cond) (n : Nat) (s : State) : (raise c n s).siPrivate = s.siPrivate := rfl
@[simp] theorem raise_scfsi (c : Cond) (n : Nat) (s : State) : (raise c n s).scfsi = s.scfsi := rfl
@[simp] theorem raise_si (c : Cond) (n : Nat) (s : State) : (raise c n s).si = s.si := rfl
@[simp] theorem raise_scfL (c : Cond) (n : Nat) (s : State) : (raise c n s).scfL = s.scfL := rfl
@[simp] theorem raise_scfS (c : Cond) (n : Nat) (s : State) : (raise c n s).scfS = s.scfS := rfl
@[simp] theorem raise_samp (c : Cond) (n : Nat) (s : State) : (raise c n s).samp = s.samp := rfl
@[simp] theorem raise_ac (c : Cond) (n : Nat) (s : State) : (raise c n s).ac = s.ac := rfl
@[simp] theorem raise_ibuf (c : Cond) (n : Nat) (s : State) : (raise c n s).ibuf = s.ibuf := rfl
@[simp] theorem raise_mdbuf (c : Cond) (n : Nat) (s : State) : (raise c n s).mdbuf = s.mdbuf := rfl
@[simp] theorem raise_plain (c : Cond) (n : Nat) (s : State) : (raise c n s).plain = s.plain := rfl
@[simp] theorem raise_code (c : Cond) (n : Nat) (s : State) : (raise c n s).code = s.code := rfl
@[simp] theorem raise_obuf (c : Cond) (n : Nat) (s : State) : (raise c n s).obuf = s.obuf := rfl
@[simp] theorem raise_cfg (c : Cond) (n : Nat) (s : State) : (raise c n s).cfg = s.cfg := rfl
@[simp] theorem raise_host (c : Cond) (n : Nat) (s : State) : (raise c n s).host = s.host := rfl
@[simp] theorem raise_readout (c : Cond) (n : Nat) (s : State) : (raise c n s).readout = s.readout := rfl

/-! ## A missing bit (20_memory.md R84) -/

@[simp] theorem noteMissing_none (s : State) : noteMissing none s = s := rfl
@[simp] theorem noteMissing_some (n : Nat) (s : State) :
    noteMissing (some n) s = raise .truncatedInput n s := rfl
@[simp] theorem noteMissing_done (m : Option Nat) (s : State) : (noteMissing m s).done = s.done := by
  cases m <;> rfl
@[simp] theorem noteMissing_hValid (m : Option Nat) (s : State) : (noteMissing m s).hValid = s.hValid := by
  cases m <;> rfl
@[simp] theorem noteMissing_siValid (m : Option Nat) (s : State) : (noteMissing m s).siValid = s.siValid := by
  cases m <;> rfl
@[simp] theorem noteMissing_mdValid (m : Option Nat) (s : State) : (noteMissing m s).mdValid = s.mdValid := by
  cases m <;> rfl
@[simp] theorem noteMissing_acMode (m : Option Nat) (s : State) : (noteMissing m s).acMode = s.acMode := by
  cases m <;> rfl
@[simp] theorem noteMissing_cfgModel (m : Option Nat) (s : State) : (noteMissing m s).cfgModel = s.cfgModel := by
  cases m <;> rfl
@[simp] theorem noteMissing_cfgNreg (m : Option Nat) (s : State) : (noteMissing m s).cfgNreg = s.cfgNreg := by
  cases m <;> rfl
@[simp] theorem noteMissing_startOff (m : Option Nat) (s : State) : (noteMissing m s).startOff = s.startOff := by
  cases m <;> rfl
@[simp] theorem noteMissing_foff (m : Option Nat) (s : State) : (noteMissing m s).foff = s.foff := by
  cases m <;> rfl
@[simp] theorem noteMissing_cur (m : Option Nat) (s : State) : (noteMissing m s).cur = s.cur := by
  cases m <;> rfl
@[simp] theorem noteMissing_res (m : Option Nat) (s : State) : (noteMissing m s).res = s.res := by
  cases m <;> rfl
@[simp] theorem noteMissing_idx (m : Option Nat) (s : State) : (noteMissing m s).idx = s.idx := by
  cases m <;> rfl
@[simp] theorem noteMissing_p2start (m : Option Nat) (s : State) : (noteMissing m s).p2start = s.p2start := by
  cases m <;> rfl
@[simp] theorem noteMissing_frames (m : Option Nat) (s : State) : (noteMissing m s).frames = s.frames := by
  cases m <;> rfl
@[simp] theorem noteMissing_skipped (m : Option Nat) (s : State) : (noteMissing m s).skipped = s.skipped := by
  cases m <;> rfl
@[simp] theorem noteMissing_hdr (m : Option Nat) (s : State) : (noteMissing m s).hdr = s.hdr := by
  cases m <;> rfl
@[simp] theorem noteMissing_ring (m : Option Nat) (s : State) : (noteMissing m s).ring = s.ring := by
  cases m <;> rfl
@[simp] theorem noteMissing_mdb (m : Option Nat) (s : State) : (noteMissing m s).mdb = s.mdb := by
  cases m <;> rfl
@[simp] theorem noteMissing_siPrivate (m : Option Nat) (s : State) : (noteMissing m s).siPrivate = s.siPrivate := by
  cases m <;> rfl
@[simp] theorem noteMissing_scfsi (m : Option Nat) (s : State) : (noteMissing m s).scfsi = s.scfsi := by
  cases m <;> rfl
@[simp] theorem noteMissing_si (m : Option Nat) (s : State) : (noteMissing m s).si = s.si := by
  cases m <;> rfl
@[simp] theorem noteMissing_scfL (m : Option Nat) (s : State) : (noteMissing m s).scfL = s.scfL := by
  cases m <;> rfl
@[simp] theorem noteMissing_scfS (m : Option Nat) (s : State) : (noteMissing m s).scfS = s.scfS := by
  cases m <;> rfl
@[simp] theorem noteMissing_samp (m : Option Nat) (s : State) : (noteMissing m s).samp = s.samp := by
  cases m <;> rfl
@[simp] theorem noteMissing_ac (m : Option Nat) (s : State) : (noteMissing m s).ac = s.ac := by
  cases m <;> rfl
@[simp] theorem noteMissing_ibuf (m : Option Nat) (s : State) : (noteMissing m s).ibuf = s.ibuf := by
  cases m <;> rfl
@[simp] theorem noteMissing_mdbuf (m : Option Nat) (s : State) : (noteMissing m s).mdbuf = s.mdbuf := by
  cases m <;> rfl
@[simp] theorem noteMissing_plain (m : Option Nat) (s : State) : (noteMissing m s).plain = s.plain := by
  cases m <;> rfl
@[simp] theorem noteMissing_code (m : Option Nat) (s : State) : (noteMissing m s).code = s.code := by
  cases m <;> rfl
@[simp] theorem noteMissing_obuf (m : Option Nat) (s : State) : (noteMissing m s).obuf = s.obuf := by
  cases m <;> rfl
@[simp] theorem noteMissing_cfg (m : Option Nat) (s : State) : (noteMissing m s).cfg = s.cfg := by
  cases m <;> rfl
@[simp] theorem noteMissing_host (m : Option Nat) (s : State) : (noteMissing m s).host = s.host := by
  cases m <;> rfl
@[simp] theorem noteMissing_readout (m : Option Nat) (s : State) : (noteMissing m s).readout = s.readout := by
  cases m <;> rfl

/-! ## A cursor applied (00_scope.md R10) -/

@[simp] theorem applyCursor_cur (c : Cursor) (s : State) : (applyCursor c s).cur = c.cur := by
  simp [applyCursor]
@[simp] theorem applyCursor_done (c : Cursor) (s : State) : (applyCursor c s).done = s.done := by
  simp [applyCursor]
@[simp] theorem applyCursor_hValid (c : Cursor) (s : State) : (applyCursor c s).hValid = s.hValid := by
  simp [applyCursor]
@[simp] theorem applyCursor_siValid (c : Cursor) (s : State) : (applyCursor c s).siValid = s.siValid := by
  simp [applyCursor]
@[simp] theorem applyCursor_mdValid (c : Cursor) (s : State) : (applyCursor c s).mdValid = s.mdValid := by
  simp [applyCursor]
@[simp] theorem applyCursor_acMode (c : Cursor) (s : State) : (applyCursor c s).acMode = s.acMode := by
  simp [applyCursor]
@[simp] theorem applyCursor_cfgModel (c : Cursor) (s : State) : (applyCursor c s).cfgModel = s.cfgModel := by
  simp [applyCursor]
@[simp] theorem applyCursor_cfgNreg (c : Cursor) (s : State) : (applyCursor c s).cfgNreg = s.cfgNreg := by
  simp [applyCursor]
@[simp] theorem applyCursor_startOff (c : Cursor) (s : State) : (applyCursor c s).startOff = s.startOff := by
  simp [applyCursor]
@[simp] theorem applyCursor_foff (c : Cursor) (s : State) : (applyCursor c s).foff = s.foff := by
  simp [applyCursor]
@[simp] theorem applyCursor_res (c : Cursor) (s : State) : (applyCursor c s).res = s.res := by
  simp [applyCursor]
@[simp] theorem applyCursor_idx (c : Cursor) (s : State) : (applyCursor c s).idx = s.idx := by
  simp [applyCursor]
@[simp] theorem applyCursor_p2start (c : Cursor) (s : State) : (applyCursor c s).p2start = s.p2start := by
  simp [applyCursor]
@[simp] theorem applyCursor_frames (c : Cursor) (s : State) : (applyCursor c s).frames = s.frames := by
  simp [applyCursor]
@[simp] theorem applyCursor_skipped (c : Cursor) (s : State) : (applyCursor c s).skipped = s.skipped := by
  simp [applyCursor]
@[simp] theorem applyCursor_hdr (c : Cursor) (s : State) : (applyCursor c s).hdr = s.hdr := by
  simp [applyCursor]
@[simp] theorem applyCursor_ring (c : Cursor) (s : State) : (applyCursor c s).ring = s.ring := by
  simp [applyCursor]
@[simp] theorem applyCursor_mdb (c : Cursor) (s : State) : (applyCursor c s).mdb = s.mdb := by
  simp [applyCursor]
@[simp] theorem applyCursor_siPrivate (c : Cursor) (s : State) : (applyCursor c s).siPrivate = s.siPrivate := by
  simp [applyCursor]
@[simp] theorem applyCursor_scfsi (c : Cursor) (s : State) : (applyCursor c s).scfsi = s.scfsi := by
  simp [applyCursor]
@[simp] theorem applyCursor_si (c : Cursor) (s : State) : (applyCursor c s).si = s.si := by
  simp [applyCursor]
@[simp] theorem applyCursor_scfL (c : Cursor) (s : State) : (applyCursor c s).scfL = s.scfL := by
  simp [applyCursor]
@[simp] theorem applyCursor_scfS (c : Cursor) (s : State) : (applyCursor c s).scfS = s.scfS := by
  simp [applyCursor]
@[simp] theorem applyCursor_samp (c : Cursor) (s : State) : (applyCursor c s).samp = s.samp := by
  simp [applyCursor]
@[simp] theorem applyCursor_ac (c : Cursor) (s : State) : (applyCursor c s).ac = s.ac := by
  simp [applyCursor]
@[simp] theorem applyCursor_ibuf (c : Cursor) (s : State) : (applyCursor c s).ibuf = s.ibuf := by
  simp [applyCursor]
@[simp] theorem applyCursor_mdbuf (c : Cursor) (s : State) : (applyCursor c s).mdbuf = s.mdbuf := by
  simp [applyCursor]
@[simp] theorem applyCursor_plain (c : Cursor) (s : State) : (applyCursor c s).plain = s.plain := by
  simp [applyCursor]
@[simp] theorem applyCursor_code (c : Cursor) (s : State) : (applyCursor c s).code = s.code := by
  simp [applyCursor]
@[simp] theorem applyCursor_obuf (c : Cursor) (s : State) : (applyCursor c s).obuf = s.obuf := by
  simp [applyCursor]
@[simp] theorem applyCursor_cfg (c : Cursor) (s : State) : (applyCursor c s).cfg = s.cfg := by
  simp [applyCursor]
@[simp] theorem applyCursor_host (c : Cursor) (s : State) : (applyCursor c s).host = s.host := by
  simp [applyCursor]
@[simp] theorem applyCursor_readout (c : Cursor) (s : State) : (applyCursor c s).readout = s.readout := by
  simp [applyCursor]

/-! ## The valid bits cleared (10_state.md R24) -/

@[simp] theorem clearValid_hValid (s : State) : (clearValid s).hValid = false := rfl
@[simp] theorem clearValid_siValid (s : State) : (clearValid s).siValid = false := rfl
@[simp] theorem clearValid_mdValid (s : State) : (clearValid s).mdValid = false := rfl
@[simp] theorem clearValid_done (s : State) : (clearValid s).done = s.done := rfl
@[simp] theorem clearValid_acMode (s : State) : (clearValid s).acMode = s.acMode := rfl
@[simp] theorem clearValid_err (s : State) : (clearValid s).err = s.err := rfl
@[simp] theorem clearValid_lastErr (s : State) : (clearValid s).lastErr = s.lastErr := rfl
@[simp] theorem clearValid_errInfo (s : State) : (clearValid s).errInfo = s.errInfo := rfl
@[simp] theorem clearValid_cfgModel (s : State) : (clearValid s).cfgModel = s.cfgModel := rfl
@[simp] theorem clearValid_cfgNreg (s : State) : (clearValid s).cfgNreg = s.cfgNreg := rfl
@[simp] theorem clearValid_startOff (s : State) : (clearValid s).startOff = s.startOff := rfl
@[simp] theorem clearValid_foff (s : State) : (clearValid s).foff = s.foff := rfl
@[simp] theorem clearValid_cur (s : State) : (clearValid s).cur = s.cur := rfl
@[simp] theorem clearValid_res (s : State) : (clearValid s).res = s.res := rfl
@[simp] theorem clearValid_idx (s : State) : (clearValid s).idx = s.idx := rfl
@[simp] theorem clearValid_p2start (s : State) : (clearValid s).p2start = s.p2start := rfl
@[simp] theorem clearValid_frames (s : State) : (clearValid s).frames = s.frames := rfl
@[simp] theorem clearValid_skipped (s : State) : (clearValid s).skipped = s.skipped := rfl
@[simp] theorem clearValid_hdr (s : State) : (clearValid s).hdr = s.hdr := rfl
@[simp] theorem clearValid_ring (s : State) : (clearValid s).ring = s.ring := rfl
@[simp] theorem clearValid_mdb (s : State) : (clearValid s).mdb = s.mdb := rfl
@[simp] theorem clearValid_siPrivate (s : State) : (clearValid s).siPrivate = s.siPrivate := rfl
@[simp] theorem clearValid_scfsi (s : State) : (clearValid s).scfsi = s.scfsi := rfl
@[simp] theorem clearValid_si (s : State) : (clearValid s).si = s.si := rfl
@[simp] theorem clearValid_scfL (s : State) : (clearValid s).scfL = s.scfL := rfl
@[simp] theorem clearValid_scfS (s : State) : (clearValid s).scfS = s.scfS := rfl
@[simp] theorem clearValid_samp (s : State) : (clearValid s).samp = s.samp := rfl
@[simp] theorem clearValid_ac (s : State) : (clearValid s).ac = s.ac := rfl
@[simp] theorem clearValid_ibuf (s : State) : (clearValid s).ibuf = s.ibuf := rfl
@[simp] theorem clearValid_mdbuf (s : State) : (clearValid s).mdbuf = s.mdbuf := rfl
@[simp] theorem clearValid_plain (s : State) : (clearValid s).plain = s.plain := rfl
@[simp] theorem clearValid_code (s : State) : (clearValid s).code = s.code := rfl
@[simp] theorem clearValid_obuf (s : State) : (clearValid s).obuf = s.obuf := rfl
@[simp] theorem clearValid_cfg (s : State) : (clearValid s).cfg = s.cfg := rfl
@[simp] theorem clearValid_host (s : State) : (clearValid s).host = s.host := rfl
@[simp] theorem clearValid_readout (s : State) : (clearValid s).readout = s.readout := rfl

/-! ## The sticky bits cleared (60_exceptions.md R371) -/

@[simp] theorem clearErrors_err (s : State) : (clearErrors s).err = 0 := rfl
@[simp] theorem clearErrors_done (s : State) : (clearErrors s).done = s.done := rfl
@[simp] theorem clearErrors_hValid (s : State) : (clearErrors s).hValid = s.hValid := rfl
@[simp] theorem clearErrors_siValid (s : State) : (clearErrors s).siValid = s.siValid := rfl
@[simp] theorem clearErrors_mdValid (s : State) : (clearErrors s).mdValid = s.mdValid := rfl
@[simp] theorem clearErrors_acMode (s : State) : (clearErrors s).acMode = s.acMode := rfl
@[simp] theorem clearErrors_lastErr (s : State) : (clearErrors s).lastErr = s.lastErr := rfl
@[simp] theorem clearErrors_errInfo (s : State) : (clearErrors s).errInfo = s.errInfo := rfl
@[simp] theorem clearErrors_cfgModel (s : State) : (clearErrors s).cfgModel = s.cfgModel := rfl
@[simp] theorem clearErrors_cfgNreg (s : State) : (clearErrors s).cfgNreg = s.cfgNreg := rfl
@[simp] theorem clearErrors_startOff (s : State) : (clearErrors s).startOff = s.startOff := rfl
@[simp] theorem clearErrors_foff (s : State) : (clearErrors s).foff = s.foff := rfl
@[simp] theorem clearErrors_cur (s : State) : (clearErrors s).cur = s.cur := rfl
@[simp] theorem clearErrors_res (s : State) : (clearErrors s).res = s.res := rfl
@[simp] theorem clearErrors_idx (s : State) : (clearErrors s).idx = s.idx := rfl
@[simp] theorem clearErrors_p2start (s : State) : (clearErrors s).p2start = s.p2start := rfl
@[simp] theorem clearErrors_frames (s : State) : (clearErrors s).frames = s.frames := rfl
@[simp] theorem clearErrors_skipped (s : State) : (clearErrors s).skipped = s.skipped := rfl
@[simp] theorem clearErrors_hdr (s : State) : (clearErrors s).hdr = s.hdr := rfl
@[simp] theorem clearErrors_ring (s : State) : (clearErrors s).ring = s.ring := rfl
@[simp] theorem clearErrors_mdb (s : State) : (clearErrors s).mdb = s.mdb := rfl
@[simp] theorem clearErrors_siPrivate (s : State) : (clearErrors s).siPrivate = s.siPrivate := rfl
@[simp] theorem clearErrors_scfsi (s : State) : (clearErrors s).scfsi = s.scfsi := rfl
@[simp] theorem clearErrors_si (s : State) : (clearErrors s).si = s.si := rfl
@[simp] theorem clearErrors_scfL (s : State) : (clearErrors s).scfL = s.scfL := rfl
@[simp] theorem clearErrors_scfS (s : State) : (clearErrors s).scfS = s.scfS := rfl
@[simp] theorem clearErrors_samp (s : State) : (clearErrors s).samp = s.samp := rfl
@[simp] theorem clearErrors_ac (s : State) : (clearErrors s).ac = s.ac := rfl
@[simp] theorem clearErrors_ibuf (s : State) : (clearErrors s).ibuf = s.ibuf := rfl
@[simp] theorem clearErrors_mdbuf (s : State) : (clearErrors s).mdbuf = s.mdbuf := rfl
@[simp] theorem clearErrors_plain (s : State) : (clearErrors s).plain = s.plain := rfl
@[simp] theorem clearErrors_code (s : State) : (clearErrors s).code = s.code := rfl
@[simp] theorem clearErrors_obuf (s : State) : (clearErrors s).obuf = s.obuf := rfl
@[simp] theorem clearErrors_cfg (s : State) : (clearErrors s).cfg = s.cfg := rfl
@[simp] theorem clearErrors_host (s : State) : (clearErrors s).host = s.host := rfl
@[simp] theorem clearErrors_readout (s : State) : (clearErrors s).readout = s.readout := rfl

/-! ## A buffer replaced (20_memory.md R80) -/

@[simp] theorem setBuf_buf (s : State) (i j : BufId) (b : Buffer) :
    (s.setBuf i b).buf j = if j = i then b else s.buf j := by
  cases i <;> cases j <;> rfl
theorem setBuf_cap (s : State) (i j : BufId) (b : Buffer) : (s.setBuf i b).cap j = s.cap j := by
  cases i <;> cases j <;> rfl
@[simp] theorem setBuf_done (s : State) (i : BufId) (b : Buffer) : (s.setBuf i b).done = s.done := by
  cases i <;> rfl
@[simp] theorem setBuf_hValid (s : State) (i : BufId) (b : Buffer) : (s.setBuf i b).hValid = s.hValid := by
  cases i <;> rfl
@[simp] theorem setBuf_siValid (s : State) (i : BufId) (b : Buffer) : (s.setBuf i b).siValid = s.siValid := by
  cases i <;> rfl
@[simp] theorem setBuf_mdValid (s : State) (i : BufId) (b : Buffer) : (s.setBuf i b).mdValid = s.mdValid := by
  cases i <;> rfl
@[simp] theorem setBuf_acMode (s : State) (i : BufId) (b : Buffer) : (s.setBuf i b).acMode = s.acMode := by
  cases i <;> rfl
@[simp] theorem setBuf_err (s : State) (i : BufId) (b : Buffer) : (s.setBuf i b).err = s.err := by
  cases i <;> rfl
@[simp] theorem setBuf_lastErr (s : State) (i : BufId) (b : Buffer) : (s.setBuf i b).lastErr = s.lastErr := by
  cases i <;> rfl
@[simp] theorem setBuf_errInfo (s : State) (i : BufId) (b : Buffer) : (s.setBuf i b).errInfo = s.errInfo := by
  cases i <;> rfl
@[simp] theorem setBuf_cfgModel (s : State) (i : BufId) (b : Buffer) : (s.setBuf i b).cfgModel = s.cfgModel := by
  cases i <;> rfl
@[simp] theorem setBuf_cfgNreg (s : State) (i : BufId) (b : Buffer) : (s.setBuf i b).cfgNreg = s.cfgNreg := by
  cases i <;> rfl
@[simp] theorem setBuf_startOff (s : State) (i : BufId) (b : Buffer) : (s.setBuf i b).startOff = s.startOff := by
  cases i <;> rfl
@[simp] theorem setBuf_foff (s : State) (i : BufId) (b : Buffer) : (s.setBuf i b).foff = s.foff := by
  cases i <;> rfl
@[simp] theorem setBuf_cur (s : State) (i : BufId) (b : Buffer) : (s.setBuf i b).cur = s.cur := by
  cases i <;> rfl
@[simp] theorem setBuf_res (s : State) (i : BufId) (b : Buffer) : (s.setBuf i b).res = s.res := by
  cases i <;> rfl
@[simp] theorem setBuf_idx (s : State) (i : BufId) (b : Buffer) : (s.setBuf i b).idx = s.idx := by
  cases i <;> rfl
@[simp] theorem setBuf_p2start (s : State) (i : BufId) (b : Buffer) : (s.setBuf i b).p2start = s.p2start := by
  cases i <;> rfl
@[simp] theorem setBuf_frames (s : State) (i : BufId) (b : Buffer) : (s.setBuf i b).frames = s.frames := by
  cases i <;> rfl
@[simp] theorem setBuf_skipped (s : State) (i : BufId) (b : Buffer) : (s.setBuf i b).skipped = s.skipped := by
  cases i <;> rfl
@[simp] theorem setBuf_hdr (s : State) (i : BufId) (b : Buffer) : (s.setBuf i b).hdr = s.hdr := by
  cases i <;> rfl
@[simp] theorem setBuf_ring (s : State) (i : BufId) (b : Buffer) : (s.setBuf i b).ring = s.ring := by
  cases i <;> rfl
@[simp] theorem setBuf_mdb (s : State) (i : BufId) (b : Buffer) : (s.setBuf i b).mdb = s.mdb := by
  cases i <;> rfl
@[simp] theorem setBuf_siPrivate (s : State) (i : BufId) (b : Buffer) : (s.setBuf i b).siPrivate = s.siPrivate := by
  cases i <;> rfl
@[simp] theorem setBuf_scfsi (s : State) (i : BufId) (b : Buffer) : (s.setBuf i b).scfsi = s.scfsi := by
  cases i <;> rfl
@[simp] theorem setBuf_si (s : State) (i : BufId) (b : Buffer) : (s.setBuf i b).si = s.si := by
  cases i <;> rfl
@[simp] theorem setBuf_scfL (s : State) (i : BufId) (b : Buffer) : (s.setBuf i b).scfL = s.scfL := by
  cases i <;> rfl
@[simp] theorem setBuf_scfS (s : State) (i : BufId) (b : Buffer) : (s.setBuf i b).scfS = s.scfS := by
  cases i <;> rfl
@[simp] theorem setBuf_samp (s : State) (i : BufId) (b : Buffer) : (s.setBuf i b).samp = s.samp := by
  cases i <;> rfl
@[simp] theorem setBuf_ac (s : State) (i : BufId) (b : Buffer) : (s.setBuf i b).ac = s.ac := by
  cases i <;> rfl
@[simp] theorem setBuf_cfg (s : State) (i : BufId) (b : Buffer) : (s.setBuf i b).cfg = s.cfg := by
  cases i <;> rfl
@[simp] theorem setBuf_host (s : State) (i : BufId) (b : Buffer) : (s.setBuf i b).host = s.host := by
  cases i <;> rfl
@[simp] theorem setBuf_readout (s : State) (i : BufId) (b : Buffer) : (s.setBuf i b).readout = s.readout := by
  cases i <;> rfl

/-! ## The host's pending actions -/

@[simp] theorem pending_host (s : State) (op : HostOp) : (s.pending op).host = op :: s.host := rfl
@[simp] theorem pending_done (s : State) (op : HostOp) : (s.pending op).done = s.done := rfl
@[simp] theorem pending_hValid (s : State) (op : HostOp) : (s.pending op).hValid = s.hValid := rfl
@[simp] theorem pending_siValid (s : State) (op : HostOp) : (s.pending op).siValid = s.siValid := rfl
@[simp] theorem pending_mdValid (s : State) (op : HostOp) : (s.pending op).mdValid = s.mdValid := rfl
@[simp] theorem pending_acMode (s : State) (op : HostOp) : (s.pending op).acMode = s.acMode := rfl
@[simp] theorem pending_err (s : State) (op : HostOp) : (s.pending op).err = s.err := rfl
@[simp] theorem pending_lastErr (s : State) (op : HostOp) : (s.pending op).lastErr = s.lastErr := rfl
@[simp] theorem pending_errInfo (s : State) (op : HostOp) : (s.pending op).errInfo = s.errInfo := rfl
@[simp] theorem pending_cfgModel (s : State) (op : HostOp) : (s.pending op).cfgModel = s.cfgModel := rfl
@[simp] theorem pending_cfgNreg (s : State) (op : HostOp) : (s.pending op).cfgNreg = s.cfgNreg := rfl
@[simp] theorem pending_startOff (s : State) (op : HostOp) : (s.pending op).startOff = s.startOff := rfl
@[simp] theorem pending_foff (s : State) (op : HostOp) : (s.pending op).foff = s.foff := rfl
@[simp] theorem pending_cur (s : State) (op : HostOp) : (s.pending op).cur = s.cur := rfl
@[simp] theorem pending_res (s : State) (op : HostOp) : (s.pending op).res = s.res := rfl
@[simp] theorem pending_idx (s : State) (op : HostOp) : (s.pending op).idx = s.idx := rfl
@[simp] theorem pending_p2start (s : State) (op : HostOp) : (s.pending op).p2start = s.p2start := rfl
@[simp] theorem pending_frames (s : State) (op : HostOp) : (s.pending op).frames = s.frames := rfl
@[simp] theorem pending_skipped (s : State) (op : HostOp) : (s.pending op).skipped = s.skipped := rfl
@[simp] theorem pending_hdr (s : State) (op : HostOp) : (s.pending op).hdr = s.hdr := rfl
@[simp] theorem pending_ring (s : State) (op : HostOp) : (s.pending op).ring = s.ring := rfl
@[simp] theorem pending_mdb (s : State) (op : HostOp) : (s.pending op).mdb = s.mdb := rfl
@[simp] theorem pending_siPrivate (s : State) (op : HostOp) : (s.pending op).siPrivate = s.siPrivate := rfl
@[simp] theorem pending_scfsi (s : State) (op : HostOp) : (s.pending op).scfsi = s.scfsi := rfl
@[simp] theorem pending_si (s : State) (op : HostOp) : (s.pending op).si = s.si := rfl
@[simp] theorem pending_scfL (s : State) (op : HostOp) : (s.pending op).scfL = s.scfL := rfl
@[simp] theorem pending_scfS (s : State) (op : HostOp) : (s.pending op).scfS = s.scfS := rfl
@[simp] theorem pending_samp (s : State) (op : HostOp) : (s.pending op).samp = s.samp := rfl
@[simp] theorem pending_ac (s : State) (op : HostOp) : (s.pending op).ac = s.ac := rfl
@[simp] theorem pending_ibuf (s : State) (op : HostOp) : (s.pending op).ibuf = s.ibuf := rfl
@[simp] theorem pending_mdbuf (s : State) (op : HostOp) : (s.pending op).mdbuf = s.mdbuf := rfl
@[simp] theorem pending_plain (s : State) (op : HostOp) : (s.pending op).plain = s.plain := rfl
@[simp] theorem pending_code (s : State) (op : HostOp) : (s.pending op).code = s.code := rfl
@[simp] theorem pending_obuf (s : State) (op : HostOp) : (s.pending op).obuf = s.obuf := rfl
@[simp] theorem pending_cfg (s : State) (op : HostOp) : (s.pending op).cfg = s.cfg := rfl
@[simp] theorem pending_readout (s : State) (op : HostOp) : (s.pending op).readout = s.readout := rfl

/-! ## The side-information blocks (10_state.md R40) -/

theorem SideBlocks.get_set (b : SideBlocks) (gr ch gr' ch' : Fin 2) (v : SideBlock) :
    (b.set gr ch v).get gr' ch' = if gr' = gr ∧ ch' = ch then v else b.get gr' ch' := by
  fin_cases gr <;> fin_cases ch <;> fin_cases gr' <;> fin_cases ch' <;> rfl

@[simp] theorem SideBlocks.get_set_same (b : SideBlocks) (gr ch : Fin 2) (v : SideBlock) :
    (b.set gr ch v).get gr ch = v := by
  simp [SideBlocks.get_set]

end Sys2Proof.Machine
end

