-- ==== Sys2Proof/Laws/Ops.lean ====
section
/-! SUPPORT. One lemma for each shared operation that says everything it can do: raising, noting a missing
bit, appending, the flow of a body, the bit cursor, and the two ways a command begins. -/

namespace Sys2Proof.Machine

/-! ## Commands (30_encoding.md R110, 60_exceptions.md R360) -/

/-- A command without a precondition always completes. -/
theorem always_eq (body : State → State) (s : State) : always body s = .next (body (accept s)) := rfl

/-- A command whose precondition holds runs its body. -/
theorem guarded_of_pre {i : Instr} {pre : State → Bool} {body : State → State} {s : State}
    (h : pre (accept s) = true) : guarded i pre body s = .next (body (accept s)) := by
  unfold guarded; rw [if_pos h]

/-- A command whose precondition fails records `SequenceError` and does nothing else. -/
theorem guarded_of_not_pre {i : Instr} {pre : State → Bool} {body : State → State} {s : State}
    (h : pre (accept s) = false) : guarded i pre body s = .next (sequenceError i (accept s)) := by
  unfold guarded; rw [if_neg (by simp [h])]

/-- Everything a command with a precondition can do. -/
theorem guarded_cases {i : Instr} {pre : State → Bool} {body : State → State} {s t : State}
    (h : guarded i pre body s = .next t) :
    (pre (accept s) = true ∧ t = body (accept s)) ∨
      (pre (accept s) = false ∧ t = sequenceError i (accept s)) := by
  cases hp : pre (accept s)
  · rw [guarded_of_not_pre hp] at h
    exact .inr ⟨rfl, (Host.Outcome.next.inj h).symm⟩
  · rw [guarded_of_pre hp] at h
    exact .inl ⟨rfl, (Host.Outcome.next.inj h).symm⟩

@[simp] theorem accept_accept (s : State) : accept (accept s) = accept s := rfl

/-! ## Conditions (60_exceptions.md R351) -/

/-- What a raise leaves as it was: everything but the three error registers. -/
theorem raise_eq (c : Cond) (n : Nat) (s : State) :
    raise c n s =
      { s with err := (raise c n s).err, lastErr := (raise c n s).lastErr,
               errInfo := (raise c n s).errInfo } := rfl

/-- Noting a missing bit changes at most the three error registers. -/
theorem noteMissing_eq (m : Option Nat) (s : State) :
    noteMissing m s =
      { s with err := (noteMissing m s).err, lastErr := (noteMissing m s).lastErr,
               errInfo := (noteMissing m s).errInfo } := by
  cases m <;> rfl

/-- A code is one of 1 to 12, so it is not 0 in four bits. -/
theorem Cond.code_ne_zero (c : Cond) : BitVec.ofNat 4 c.code ≠ 0 := by
  cases c <;> decide

/-- After a raise `LASTERR` is not 0 (10_state.md R26). -/
theorem raise_lastErr_ne_zero (c : Cond) (n : Nat) (s : State) : (raise c n s).lastErr ≠ 0 := by
  rw [raise_lastErr]
  by_cases h : latches s.lastErr c = true
  · rw [if_pos h]; exact Cond.code_ne_zero c
  · rw [if_neg h]
    intro h0
    rw [h0] at h
    simp [latches] at h

/-- `LASTERR` stays a code of R352. -/
theorem raise_lastErr_le (c : Cond) (n : Nat) (s : State) (h : s.lastErr.toNat ≤ 12) :
    (raise c n s).lastErr.toNat ≤ 12 := by
  rw [raise_lastErr]
  split
  · cases c <;> decide
  · exact h

/-- A sticky bit that is set stays set (10_state.md R25). -/
theorem setErrBit_sticky (e : BitVec 13) (c : Cond) (k : Nat) (h : e.getLsbD k = true) :
    (setErrBit e c).getLsbD k = true := by
  simp [setErrBit, h]

/-- The bit of the raised condition is set (R351). -/
theorem setErrBit_self (e : BitVec 13) (c : Cond) : (setErrBit e c).getLsbD c.code = true := by
  cases c <;> simp [setErrBit, Cond.code]

/-- Bit 0 of `ERR` is never set (R25). -/
theorem setErrBit_zero (e : BitVec 13) (c : Cond) : (setErrBit e c).getLsbD 0 = e.getLsbD 0 := by
  cases c <;> simp [setErrBit, Cond.code]

/-! ## The flow of a body (60_exceptions.md R362) -/

@[simp] theorem Flow.bind_go (s : State) (k : State → Flow) : (Flow.go s).bind k = k s := rfl
@[simp] theorem Flow.bind_halt (s : State) (k : State → Flow) : (Flow.halt s).bind k = .halt s := rfl
@[simp] theorem Flow.state_go (s : State) : (Flow.go s).state = s := rfl
@[simp] theorem Flow.state_halt (s : State) : (Flow.halt s).state = s := rfl

/-- What holds where a body stands and is kept by its rest holds where the whole ends. -/
theorem Flow.state_bind {P Q : State → Prop} {f : Flow} {k : State → Flow} (h : P f.state)
    (hQ : ∀ s, P s → Q s) (hk : ∀ s, P s → Q (k s).state) : Q (f.bind k).state := by
  cases f with
  | go s => exact hk s h
  | halt s => exact hQ s h

theorem Flow.bind_assoc (f : Flow) (k l : State → Flow) :
    (f.bind k).bind l = f.bind fun s => (k s).bind l := by cases f <;> rfl

/-! ## Appending (00_scope.md R10, 20_memory.md R97) -/

/-- Everything an append can do. -/
theorem append_cases (b : BufId) (v : Byte) (s : State) :
    (s.full b = false ∧ append b v s = .go (s.setBuf b ((s.buf b).append v))) ∨
      (s.full b = true ∧ append b v s = .halt (raise .capacityFault b.id s)) := by
  unfold append
  cases s.full b <;> simp

/-- A buffer without a capacity is never full. -/
theorem full_of_unbounded {s : State} {b : BufId} (h : s.cap b = none) : s.full b = false := by
  simp [State.full, h]

theorem append_unbounded {s : State} {b : BufId} (h : s.cap b = none) (v : Byte) :
    append b v s = .go (s.setBuf b ((s.buf b).append v)) := by
  unfold append; rw [full_of_unbounded h]; simp

/-- An append keeps what a raise and the longer buffer keep. -/
theorem append_keeps {P : State → Prop} (b : BufId) (v : Byte) (s : State) (h : P s)
    (hr : ∀ n s, P s → P (raise .capacityFault n s))
    (hb : ∀ s, P s → P (s.setBuf b ((s.buf b).append v))) : P (append b v s).state := by
  rcases append_cases b v s with ⟨_, he⟩ | ⟨_, he⟩ <;> rw [he]
  · exact hb s h
  · exact hr _ s h

/-- Several appends keep what each of them keeps. -/
theorem appendAll_keeps {P : State → Prop} (b : BufId) (vs : List Byte) (s : State) (h : P s)
    (hr : ∀ n s, P s → P (raise .capacityFault n s))
    (hb : ∀ v s, P s → P (s.setBuf b ((s.buf b).append v))) : P (appendAll b vs s).state := by
  induction vs generalizing s with
  | nil => exact h
  | cons v vs ih =>
    exact Flow.state_bind (P := P) (append_keeps b v s h hr (hb v)) (fun _ h => h) (fun s h => ih s h)

/-- The buffer that several appends leave. -/
def Buffer.appendList (b : Buffer) (vs : List Byte) : Buffer := vs.foldl Buffer.append b

@[simp] theorem Buffer.appendList_nil (b : Buffer) : b.appendList [] = b := rfl

theorem Buffer.appendList_cons (b : Buffer) (v : Byte) (vs : List Byte) :
    b.appendList (v :: vs) = (b.append v).appendList vs := rfl

theorem Buffer.appendList_append (b : Buffer) (vs ws : List Byte) :
    b.appendList (vs ++ ws) = (b.appendList vs).appendList ws := by
  simp [Buffer.appendList]

@[simp] theorem Buffer.appendList_len (b : Buffer) (vs : List Byte) :
    (b.appendList vs).len = b.len + vs.length := by
  induction vs generalizing b with
  | nil => rfl
  | cons v vs ih => rw [Buffer.appendList_cons, ih]; simp; omega

/-- Old bytes stay, new bytes follow (00_scope.md R10). -/
theorem Buffer.read_appendList (b : Buffer) (vs : List Byte) (a : Nat) :
    (b.appendList vs).read a = if a < b.len then b.read a else vs.getD (a - b.len) 0 := by
  induction vs generalizing b with
  | nil =>
    by_cases h : a < b.len
    · simp [h]
    · simp [h, Buffer.read_of_ge (Nat.le_of_not_lt h)]
  | cons v vs ih =>
    rw [Buffer.appendList_cons, ih, Buffer.append_len, Buffer.read_append]
    by_cases h : a < b.len
    · rw [if_pos (by omega), if_neg (by omega), if_pos h]
    · by_cases he : a = b.len
      · subst he; simp
      · have h1 : ¬ a < b.len + 1 := by omega
        have h2 : a - b.len = (a - (b.len + 1)) + 1 := by omega
        simp only [h, h1, if_false, h2, List.getD_cons_succ]

/-- The bytes after several appends are the old bytes and then the new. -/
theorem Buffer.bytes_appendList (b : Buffer) (vs : List Byte) :
    (b.appendList vs).bytes = b.bytes ++ vs := by
  apply List.ext_getElem
  · simp
  · intro i h1 h2
    simp only [Buffer.bytes, Buffer.slice, Buffer.appendList_len, List.getElem_map, List.getElem_range,
      Nat.zero_add, Buffer.read_appendList]
    split
    · rename_i h
      rw [List.getElem_append_left (by simpa using h)]
      simp
    · rename_i h
      rw [List.getElem_append_right (by simpa using h)]
      simp only [List.length_map, List.length_range]
      rw [List.getD_eq_getElem]

theorem Buffer.wf_appendList {b : Buffer} (vs : List Byte) (h : b.wf = true) :
    (b.appendList vs).wf = true := by
  induction vs generalizing b with
  | nil => exact h
  | cons v vs ih => exact ih (Buffer.wf_append v h)

@[simp] theorem setBuf_setBuf (s : State) (b : BufId) (x y : Buffer) :
    (s.setBuf b x).setBuf b y = s.setBuf b y := by cases b <;> rfl

@[simp] theorem setBuf_self (s : State) (b : BufId) : s.setBuf b (s.buf b) = s := by cases b <;> rfl

/-- Appending to a buffer without a capacity always goes on, with all the bytes at the end. -/
theorem appendAll_unbounded {s : State} {b : BufId} (h : s.cap b = none) (vs : List Byte) :
    appendAll b vs s = .go (s.setBuf b ((s.buf b).appendList vs)) := by
  induction vs generalizing s with
  | nil => simp [appendAll]
  | cons v vs ih =>
    rw [appendAll, append_unbounded h, Flow.bind_go, ih (by rw [setBuf_cap]; exact h)]
    simp [Buffer.appendList_cons]

theorem appendAll_append (b : BufId) (vs ws : List Byte) (s : State) :
    appendAll b (vs ++ ws) s = (appendAll b vs s).bind (appendAll b ws) := by
  induction vs generalizing s with
  | nil => rfl
  | cons v vs ih =>
    simp only [List.cons_append, appendAll, Flow.bind_assoc]
    congr 1; funext s; exact ih s

/-! ## Bits (40_control_and_bitreader.md R164) -/

/-- A read of `m + n` bits is a read of `m` and then of `n`. -/
theorem Buffer.bits_add (b : Buffer) (off m n : Nat) :
    b.bits off (m + n) = b.bits off m * 2 ^ n + b.bits (off + m) n := by
  induction n with
  | zero => simp
  | succ n ih =>
    rw [← Nat.add_assoc, Buffer.bits_succ, Buffer.bits_succ, ih, Nat.pow_succ, Nat.add_assoc off]
    ring

theorem Buffer.bits_one (b : Buffer) (off : Nat) : b.bits off 1 = (b.bit off).toNat := by
  simp [Buffer.bits_succ]

/-- A read that stays inside the buffer misses no bit. -/
theorem Buffer.missing_of_le {b : Buffer} {off n : Nat} (h : off + n ≤ 8 * b.len) :
    b.missing off n = none := by
  unfold Buffer.missing; rw [if_neg (by omega)]

@[simp] theorem Buffer.missing_zero (b : Buffer) (off : Nat) : b.missing off 0 = none := by
  simp [Buffer.missing]

/-- The first missing bit of a read of `m + n` bits is that of the first part, or else of the second. -/
theorem Buffer.missing_add (b : Buffer) (off m n : Nat) :
    b.missing off (m + n) = (b.missing off m).or (b.missing (off + m) n) := by
  unfold Buffer.missing
  split_ifs <;> simp <;> omega

/-- Bits beyond the end are 0. -/
theorem Buffer.bit_of_ge {b : Buffer} {i : Nat} (h : 8 * b.len ≤ i) : b.bit i = false := by
  unfold Buffer.bit
  rw [Buffer.read_of_ge (by omega)]
  simp

/-! ## Missing bits noted one after another (60_exceptions.md R351) -/

/-- Only the first missing bit leaves a trace: a later truncation changes nothing more. -/
theorem noteMissing_or (m n : Option Nat) (s : State) :
    noteMissing (m.or n) s = noteMissing n (noteMissing m s) := by
  cases m with
  | none => simp
  | some a =>
    cases n with
    | none => rfl
    | some c =>
      have hl : latches (raise .truncatedInput a s).lastErr .truncatedInput = false := by
        have := raise_lastErr_ne_zero .truncatedInput a s
        simp [latches]
        exact this
      simp only [Option.some_or, noteMissing_some]
      conv_rhs => rw [raise]
      rw [hl]
      simp [raise, setErrBit, BitVec.or_assoc]

/-- Noting twice is noting the first. -/
theorem noteMissing_noteMissing (m n : Option Nat) (s : State) :
    noteMissing n (noteMissing m s) = noteMissing (m.or n) s := (noteMissing_or m n s).symm

/-! ## What every shared operation leaves unchanged -/

theorem sameReads_refl {w : Nat} (m : Memory w) : sameReads m m := fun _ => rfl

theorem sameBytes_refl (b : Buffer) : sameBytes b b := ⟨rfl, fun _ => rfl⟩

theorem Part.same_refl (p : Part) (s : State) : p.same s s := by
  cases p <;> first | exact rfl | exact sameReads_refl _ | exact sameBytes_refl _

theorem Part.same_trans {p : Part} {s t u : State} (h : p.same s t) (h' : p.same t u) : p.same s u := by
  cases p <;>
    first
    | exact Eq.trans h' h
    | exact fun a => (h' a).trans (h a)
    | exact ⟨h'.1.trans h.1, fun a => (h'.2 a).trans (h.2 a)⟩

theorem unchangedBut_refl (l : List Part) (s : State) : unchangedBut l s s := fun p _ => p.same_refl s

theorem unchangedBut_trans {l : List Part} {s t u : State} (h : unchangedBut l s t)
    (h' : unchangedBut l t u) : unchangedBut l s u := fun p hp =>
  Part.same_trans (h p hp) (h' p hp)

theorem unchangedBut_mono {l l' : List Part} {s t : State} (h : unchangedBut l s t)
    (hl : ∀ p ∈ l, p ∈ l') : unchangedBut l' s t := fun p hp => h p fun hm => hp (hl p hm)

theorem accept_unchanged (s : State) : unchangedBut [.lastErr, .errInfo] s (accept s) := by
  intro p hp
  cases p <;>
    first
    | exact rfl | exact sameReads_refl _ | exact sameBytes_refl _
    | exact absurd (by decide) hp

theorem raise_unchanged (c : Cond) (n : Nat) (s : State) : unchangedBut Part.errors s (raise c n s) := by
  intro p hp
  cases p <;>
    first
    | exact rfl | exact sameReads_refl _ | exact sameBytes_refl _
    | exact absurd (by decide) hp

theorem noteMissing_unchanged (m : Option Nat) (s : State) :
    unchangedBut Part.errors s (noteMissing m s) := by
  cases m with
  | none => exact unchangedBut_refl _ _
  | some n => exact raise_unchanged _ _ _

end Sys2Proof.Machine
end

