-- ==== Sys2Proof/Laws/Frames.lean ====
section
/-! SUPPORT. What each command body leaves unchanged: the "Writes" lines of the rules, body by body. -/

namespace Sys2Proof.Machine

/-- A change of parts that a longer list names. -/
theorem unchangedBut_then {l l' : List Part} {s t u : State} (h : unchangedBut l s t)
    (hl : ∀ p ∈ l', p ∈ l) (h' : unchangedBut l' t u) : unchangedBut l s u :=
  unchangedBut_trans h (unchangedBut_mono h' hl)

/-! ## Control (40_control_and_bitreader.md) -/

theorem srstBody_unchanged (s : State) :
    unchangedBut (Part.ofFrame ++ [.res]) s (srstBody s) := by
  intro p hp
  cases p <;>
    first
    | exact rfl | exact sameBytes_refl _
    | exact absurd (by decide +kernel) hp

theorem clearErrors_unchanged (s : State) : unchangedBut [.err] s (clearErrors s) := by
  intro p hp
  cases p <;>
    first
    | exact rfl | exact sameReads_refl _ | exact sameBytes_refl _
    | exact absurd (by decide +kernel) hp

theorem sinitBody_unchanged (s : State) :
    unchangedBut ([.obuf, .frames, .skipped, .ring, .foff, .done] ++ Part.valid) s (sinitBody s) := by
  intro p hp
  cases p <;>
    first
    | exact rfl | exact sameReads_refl _ | exact sameBytes_refl _
    | exact absurd (by decide +kernel) hp

theorem rdbitsBody_unchanged (b : BufId) (adv : Bool) (n : Nat) (s : State) :
    unchangedBut (Part.errors ++ (if adv then [.res, .cur] else [.res])) s (rdbitsBody b adv n s) := by
  have h : unchangedBut (if adv then [.res, .cur] else [.res]) s
      { s with
        res := BitVec.ofNat 32 ((s.buf b).bits s.cur.toNat n)
        cur := if adv then s.cur + BitVec.ofNat 32 n else s.cur } := by
    intro p hp
    cases adv <;> cases p <;>
      first
      | exact rfl | exact sameReads_refl _ | exact sameBytes_refl _
      | exact absurd (by decide +kernel) hp
  refine unchangedBut_trans (unchangedBut_mono h ?_) (unchangedBut_mono (noteMissing_unchanged _ _) ?_)
  · cases adv <;> decide
  · cases adv <;> decide

/-! ## Frame parser (41_frame_parser.md) -/

theorem clearValid_unchanged (s : State) : unchangedBut Part.valid s (clearValid s) := by
  intro p hp
  cases p <;>
    first
    | exact rfl | exact sameReads_refl _ | exact sameBytes_refl _
    | exact absurd (by decide +kernel) hp

theorem hdrBody_unchanged (s : State) :
    unchangedBut (Part.errors ++ Part.valid ++ [.hdr]) s (hdrBody s) := by
  have h1 : unchangedBut (Part.errors ++ Part.valid ++ [.hdr]) s
      (noteMissing (s.ibuf.missing (8 * s.foff.toNat) 32) (clearValid s)) :=
    unchangedBut_trans (unchangedBut_mono (clearValid_unchanged s) (by decide +kernel))
      (unchangedBut_mono (noteMissing_unchanged _ _) (by decide +kernel))
  unfold hdrBody
  simp only
  split
  · refine unchangedBut_then (unchangedBut_trans h1 ?_) (by decide +kernel) (raise_unchanged _ _ _)
    intro p hp
    cases p <;>
      first
      | exact rfl | exact sameReads_refl _ | exact sameBytes_refl _
      | exact absurd (by decide +kernel) hp
  · refine unchangedBut_trans h1 ?_
    intro p hp
    cases p <;>
      first
      | exact rfl | exact sameReads_refl _ | exact sameBytes_refl _
      | exact absurd (by decide +kernel) hp

theorem sideBody_unchanged (s : State) :
    unchangedBut (Part.errors ++ [.mdb, .siPrivate, .scfsi, .si, .siValid, .mdValid]) s (sideBody s) := by
  unfold sideBody
  simp only
  refine unchangedBut_trans ?_ (unchangedBut_mono (noteMissing_unchanged _ _) (by decide +kernel))
  intro p hp
  cases p <;>
    first
    | exact rfl | exact sameReads_refl _ | exact sameBytes_refl _
    | exact absurd (by decide +kernel) hp

theorem noteCopies_unchanged (b : Buffer) (parts : List (Nat × Nat)) (s : State) :
    unchangedBut Part.errors s (noteCopies b parts s) := by
  unfold noteCopies
  induction parts generalizing s with
  | nil => exact unchangedBut_refl _ _
  | cons r parts ih => exact unchangedBut_trans (noteMissing_unchanged _ _) (ih _)

theorem resvBody_unchanged (s : State) :
    unchangedBut (Part.errors ++ [.mdbuf, .mdValid, .cur]) s (resvBody s) := by
  have h1 : unchangedBut (Part.errors ++ [.mdbuf, .mdValid, .cur]) s
      (noteMissing (copyMissing s.ibuf (s.foff.toNat + s.prefixLen)
        (s.foff.toNat + s.hdr.frameSize.toNat)) s) :=
    unchangedBut_mono (noteMissing_unchanged _ _) (by decide +kernel)
  unfold resvBody
  simp only
  generalize noteMissing (copyMissing s.ibuf (s.foff.toNat + s.prefixLen)
    (s.foff.toNat + s.hdr.frameSize.toNat)) s = u at h1 ⊢
  split
  · refine unchangedBut_trans h1 ?_
    intro p hp
    cases p <;>
      first
      | exact rfl | exact sameReads_refl _ | exact sameBytes_refl _
      | exact absurd (by decide +kernel) hp
  · split
    · have h2 := unchangedBut_then h1 (by decide +kernel) (raise_unchanged .reservoirInconsistency s.foff.toNat u)
      refine unchangedBut_trans h2 ?_
      intro p hp
      cases p <;>
        first
        | exact rfl | exact sameReads_refl _ | exact sameBytes_refl _
        | exact absurd (by decide +kernel) hp
    · rename_i acc parts _
      have h2 := unchangedBut_then h1 (by decide +kernel) (noteCopies_unchanged u.ibuf parts u)
      refine unchangedBut_trans h2 ?_
      intro p hp
      cases p <;>
        first
        | exact rfl | exact sameReads_refl _ | exact sameBytes_refl _
        | exact absurd (by decide +kernel) hp

theorem applyCursor_unchanged (c : Cursor) (s : State) :
    unchangedBut (Part.errors ++ [.cur]) s (applyCursor c s) := by
  unfold applyCursor
  refine unchangedBut_trans ?_ (unchangedBut_mono (noteMissing_unchanged _ _) (by decide +kernel))
  intro p hp
  cases p <;>
    first
    | exact rfl | exact sameReads_refl _ | exact sameBytes_refl _
    | exact absurd (by decide +kernel) hp

theorem scfBody_unchanged (gr ch : Fin 2) (s : State) :
    unchangedBut (Part.errors ++ [.p2start, .cur, .scfL, .scfS]) s (scfBody gr ch s) := by
  unfold scfBody
  simp only
  refine unchangedBut_trans ?_ (unchangedBut_mono (applyCursor_unchanged _ _) (by decide +kernel))
  intro p hp
  cases p <;>
    first
    | exact rfl | exact sameReads_refl _ | exact sameBytes_refl _
    | exact absurd (by decide +kernel) hp

theorem advBody_unchanged (s : State) :
    unchangedBut (Part.valid ++ [.ring, .foff]) s (advBody s) := by
  intro p hp
  cases p <;>
    first
    | exact rfl | exact sameReads_refl _ | exact sameBytes_refl _
    | exact absurd (by decide +kernel) hp

/-! ## Spectrum decoder (42_spectrum_huffman.md) -/

/-- What one code word writes: the samples, `IDX`, `CUR` (R235, R238). -/
def wordParts : List Part := Part.errors ++ [.samp, .idx, .cur]

theorem storeWord_unchanged (gr ch : Fin 2) (vs : Option (List Int)) (c : Cursor) (s : State) :
    unchangedBut wordParts s (storeWord gr ch vs c s).1 := by
  unfold storeWord
  cases vs with
  | none =>
    exact unchangedBut_trans (unchangedBut_mono (noteMissing_unchanged _ _) (by decide +kernel))
      (unchangedBut_mono (raise_unchanged _ _ _) (by decide +kernel))
  | some vs =>
    refine unchangedBut_trans ?_ (unchangedBut_mono (applyCursor_unchanged _ _) (by decide +kernel))
    intro p hp
    cases p <;>
      first
      | exact rfl | exact sameReads_refl _ | exact sameBytes_refl _
      | exact absurd (by decide +kernel) hp

theorem pairBody_unchanged (gr ch : Fin 2) (t : Nat) (s : State) :
    unchangedBut wordParts s (pairBody gr ch t s).1 := storeWord_unchanged _ _ _ _ _

theorem quadBody_unchanged (gr ch : Fin 2) (sel : Bool) (s : State) :
    unchangedBut wordParts s (quadBody gr ch sel s).1 := storeWord_unchanged _ _ _ _ _

/-- What every word of the big-value region keeps, the loop keeps (R240). -/
theorem pairLoop_keeps {P : State → Prop} (gr ch : Fin 2) (g : SideBlock) (n : Nat) (s : State) (h : P s)
    (hw : ∀ t s, s.idx.toNat < bvEnd g → P s → P (pairBody gr ch t s).1) :
    P (pairLoop gr ch g n s).1 := by
  induction n generalizing s with
  | zero => exact h
  | succ n ih =>
    unfold pairLoop
    split
    · rename_i hi
      have h1 := hw (pairTable s g s.idx.toNat) s hi h
      split
      · rename_i s' he; rw [he] at h1; exact ih _ h1
      · rename_i s' he; rw [he] at h1; exact h1
    · exact h

/-- What every group of the quadruple region keeps, the loop keeps (R240). -/
theorem quadLoop_keeps {P : State → Prop} (gr ch : Fin 2) (g : SideBlock) (stop n : Nat) (s : State)
    (h : P s) (hw : ∀ sel s, s.idx.toNat + 4 ≤ 576 → P s → P (quadBody gr ch sel s).1) :
    P (quadLoop gr ch g stop n s).1 := by
  induction n generalizing s with
  | zero => exact h
  | succ n ih =>
    unfold quadLoop
    split
    · rename_i hi
      have h1 := hw (g.c1sel == 1) s hi.2 h
      split
      · rename_i s' he; rw [he] at h1; exact ih _ h1
      · rename_i s' he; rw [he] at h1; exact h1
    · exact h

theorem specLoops_keeps {P : State → Prop} (gr ch : Fin 2) (g : SideBlock) (stop : Nat) (s : State)
    (h : P s) (hp : ∀ t s, s.idx.toNat < bvEnd g → P s → P (pairBody gr ch t s).1)
    (hq : ∀ sel s, s.idx.toNat + 4 ≤ 576 → P s → P (quadBody gr ch sel s).1) :
    P (specLoops gr ch g stop s).1 := by
  have h1 := pairLoop_keeps gr ch g 288 s h hp
  unfold specLoops
  split
  · rename_i s' he
    rw [he] at h1
    exact quadLoop_keeps gr ch g stop 144 s' h1 hq
  · rename_i s' he
    rw [he] at h1
    exact h1

theorem specStart_unchanged (gr ch : Fin 2) (s : State) :
    unchangedBut [.samp, .idx] s (specStart gr ch s) := by
  intro p hp
  cases p <;>
    first
    | exact rfl | exact sameReads_refl _ | exact sameBytes_refl _
    | exact absurd (by decide +kernel) hp

theorem specEnd_unchanged (gr ch : Fin 2) (stop : Nat) (s : State) :
    unchangedBut [.si, .cur] s (specEnd gr ch stop s) := by
  intro p hp
  cases p <;>
    first
    | exact rfl | exact sameReads_refl _ | exact sameBytes_refl _
    | exact absurd (by decide +kernel) hp

theorem specLoops_unchanged (gr ch : Fin 2) (g : SideBlock) (stop : Nat) (s : State) :
    unchangedBut wordParts s (specLoops gr ch g stop s).1 :=
  specLoops_keeps (P := unchangedBut wordParts s) gr ch g stop s (unchangedBut_refl _ _)
    (fun t s' _ h => unchangedBut_trans h (pairBody_unchanged gr ch t s'))
    (fun sel s' _ h => unchangedBut_trans h (quadBody_unchanged gr ch sel s'))

theorem specBody_unchanged (gr ch : Fin 2) (s : State) :
    unchangedBut (Part.errors ++ [.samp, .idx, .si, .cur]) s (specBody gr ch s).1 := by
  unfold specBody
  simp only
  refine unchangedBut_then ?_ (by decide +kernel) (specEnd_unchanged _ _ _ _)
  refine unchangedBut_trans (unchangedBut_mono (specStart_unchanged gr ch s) (by decide +kernel)) ?_
  exact unchangedBut_mono (specLoops_unchanged gr ch _ _ _) (by decide +kernel)

/-! ## Arithmetic coder (44_arithmetic_coder.md) -/

theorem setBuf_unchanged_code (s : State) (b : Buffer) : unchangedBut [.code] s (s.setBuf .code b) := by
  intro p hp
  cases p <;>
    first
    | exact rfl | exact sameReads_refl _ | exact sameBytes_refl _
    | exact absurd (by decide +kernel) hp

theorem setBuf_unchanged_plain (s : State) (b : Buffer) : unchangedBut [.plain] s (s.setBuf .plain b) := by
  intro p hp
  cases p <;>
    first
    | exact rfl | exact sameReads_refl _ | exact sameBytes_refl _
    | exact absurd (by decide +kernel) hp

theorem setBuf_unchanged_obuf (s : State) (b : Buffer) : unchangedBut [.obuf] s (s.setBuf .obuf b) := by
  intro p hp
  cases p <;>
    first
    | exact rfl | exact sameReads_refl _ | exact sameBytes_refl _
    | exact absurd (by decide +kernel) hp

theorem acinitBody_unchanged_encode (s : State) :
    unchangedBut [.ac, .acMode, .code] s (acinitBody .encode s) := by
  intro p hp
  cases p <;>
    first
    | exact rfl | exact sameReads_refl _ | exact sameBytes_refl _
    | exact absurd (by decide +kernel) hp

theorem acinitBody_unchanged_decode (s : State) :
    unchangedBut [.ac, .acMode, .plain] s (acinitBody .decode s) := by
  intro p hp
  cases p <;>
    first
    | exact rfl | exact sameReads_refl _ | exact sameBytes_refl _
    | exact absurd (by decide +kernel) hp

theorem ac_unchanged (s : State) (c : Coder) : unchangedBut [.ac] s { s with ac := c } := by
  intro p hp
  cases p <;>
    first
    | exact rfl | exact sameReads_refl _ | exact sameBytes_refl _
    | exact absurd (by decide +kernel) hp

theorem acMode_unchanged (s : State) (m : AcMode) : unchangedBut [.acMode] s { s with acMode := m } := by
  intro p hp
  cases p <;>
    first
    | exact rfl | exact sameReads_refl _ | exact sameBytes_refl _
    | exact absurd (by decide +kernel) hp

theorem appendAll_unchanged_code (vs : List Byte) (s : State) :
    unchangedBut (Part.errors ++ [.code]) s (appendAll .code vs s).state :=
  appendAll_keeps (P := unchangedBut (Part.errors ++ [.code]) s) .code vs s (unchangedBut_refl _ _)
    (fun _ _ h => unchangedBut_then h (by decide +kernel) (raise_unchanged _ _ _))
    (fun _ _ h => unchangedBut_then h (by decide +kernel) (setBuf_unchanged_code _ _))

theorem appendAll_unchanged_plain (vs : List Byte) (s : State) :
    unchangedBut (Part.errors ++ [.plain]) s (appendAll .plain vs s).state :=
  appendAll_keeps (P := unchangedBut (Part.errors ++ [.plain]) s) .plain vs s (unchangedBut_refl _ _)
    (fun _ _ h => unchangedBut_then h (by decide +kernel) (raise_unchanged _ _ _))
    (fun _ _ h => unchangedBut_then h (by decide +kernel) (setBuf_unchanged_plain _ _))

theorem appendAll_unchanged_obuf (vs : List Byte) (s : State) :
    unchangedBut (Part.errors ++ [.obuf]) s (appendAll .obuf vs s).state :=
  appendAll_keeps (P := unchangedBut (Part.errors ++ [.obuf]) s) .obuf vs s (unchangedBut_refl _ _)
    (fun _ _ h => unchangedBut_then h (by decide +kernel) (raise_unchanged _ _ _))
    (fun _ _ h => unchangedBut_then h (by decide +kernel) (setBuf_unchanged_obuf _ _))

/-- One append, as a list of one. -/
theorem append_unchanged_code (v : Byte) (s : State) :
    unchangedBut (Part.errors ++ [.code]) s (append .code v s).state := by
  refine append_keeps (P := unchangedBut (Part.errors ++ [.code]) s) .code v s (unchangedBut_refl _ _) ?_ ?_
  · exact fun _ _ h => unchangedBut_then h (by decide +kernel) (raise_unchanged _ _ _)
  · exact fun _ h => unchangedBut_then h (by decide +kernel) (setBuf_unchanged_code _ _)

theorem renormEnc_unchanged (n : Nat) (s : State) :
    unchangedBut (Part.errors ++ [.ac, .code]) s (renormEnc n s).state := by
  induction n generalizing s with
  | zero => exact unchangedBut_refl _ _
  | succ n ih =>
    unfold renormEnc
    split
    · refine Flow.state_bind (P := unchangedBut (Part.errors ++ [.ac, .code]) s)
        (Q := unchangedBut (Part.errors ++ [.ac, .code]) s)
        (unchangedBut_mono (append_unchanged_code _ _) (by decide +kernel)) (fun _ h => h) ?_
      intro t ht
      exact unchangedBut_trans (unchangedBut_then ht (by decide +kernel) (ac_unchanged t _)) (ih _)
    · exact unchangedBut_refl _ _

theorem encBody_unchanged (y : Bool) (s : State) :
    unchangedBut (Part.errors ++ [.ac, .code]) s (encBody y s).state := by
  unfold encBody
  exact unchangedBut_trans (unchangedBut_mono (ac_unchanged s _) (by decide +kernel)) (renormEnc_unchanged _ _)

theorem decBody_unchanged (s : State) : unchangedBut [.ac, .res] s (decBody s).1 := by
  intro p hp
  cases p <;>
    first
    | exact rfl | exact sameReads_refl _ | exact sameBytes_refl _
    | exact absurd (by decide +kernel) hp

theorem flushBody_unchanged (s : State) :
    unchangedBut (Part.errors ++ [.code, .acMode]) s (flushBody s).state := by
  unfold flushBody
  refine Flow.state_bind (P := unchangedBut (Part.errors ++ [.code, .acMode]) s)
    (Q := unchangedBut (Part.errors ++ [.code, .acMode]) s)
    (unchangedBut_mono (appendAll_unchanged_code _ _) (by decide +kernel)) (fun _ h => h) ?_
  intro t ht
  exact unchangedBut_then ht (by decide +kernel) (acMode_unchanged t _)

/-- What every decision keeps, a list of decisions keeps. -/
theorem encBits_keeps {P : State → Prop} (ys : List Bool) (s : State) (h : P s)
    (hw : ∀ y s, P s → P (encBody y s).state) : P (encBits ys s).state := by
  induction ys generalizing s with
  | nil => exact h
  | cons y ys ih => exact Flow.state_bind (P := P) (hw y s h) (fun _ h => h) (fun s h => ih s h)

/-- What every decoded decision keeps, several keep. -/
theorem decBits_keeps {P : State → Prop} (n c : Nat) (s : State) (h : P s)
    (hw : ∀ s, P s → P (decBody s).1) : P (decBits n c s).1 := by
  induction n generalizing s c with
  | zero => exact h
  | succ n ih => exact ih _ _ (hw s h)

theorem encBits_unchanged (ys : List Bool) (s : State) :
    unchangedBut (Part.errors ++ [.ac, .code]) s (encBits ys s).state :=
  encBits_keeps (P := unchangedBut (Part.errors ++ [.ac, .code]) s) ys s (unchangedBut_refl _ _)
    fun y t h => unchangedBut_trans h (encBody_unchanged y t)

theorem acencBody_unchanged (s : State) :
    unchangedBut (Part.errors ++ [.ac, .code, .acMode]) s (acencBody s).state := by
  unfold acencBody
  refine Flow.state_bind (P := unchangedBut (Part.errors ++ [.ac, .code, .acMode]) s)
    (Q := unchangedBut (Part.errors ++ [.ac, .code, .acMode]) s) ?_ (fun _ h => h) ?_
  · exact unchangedBut_trans (unchangedBut_mono (acinitBody_unchanged_encode s) (by decide +kernel))
      (unchangedBut_mono (encBits_unchanged _ _) (by decide +kernel))
  · intro t ht
    exact unchangedBut_then ht (by decide +kernel) (flushBody_unchanged t)

/-- What every step of `ACDEC` keeps, the command keeps (R289). -/
theorem acdecLoop_keeps {P : State → Prop} (n : Nat) (s t : State) (h : P s)
    (he : acdecLoop n s = .next t)
    (hd : ∀ s, P s → P (decBody s).1)
    (hr : ∀ c k s, P s → P (raise c k s))
    (hi : ∀ s, P s → P { s with acMode := .idle })
    (hb : ∀ v s, P s → P (s.setBuf .plain ((s.buf .plain).append v))) : P t := by
  induction n generalizing s with
  | zero => simp [acdecLoop] at he
  | succ n ih =>
    unfold acdecLoop at he
    split at he
    · cases he; exact hi _ (hr _ _ _ h)
    · have h1 := hd s h
      split at he
      · rename_i s' hs; rw [hs] at h1; cases he; exact hi _ h1
      · rename_i s' hs
        rw [hs] at h1
        have h8 := decBits_keeps 8 0 s' h1 hd
        have h2 := append_keeps (P := P) .plain (BitVec.ofNat 8 (decBits 8 0 s').2) _ h8
          (fun k s h => hr .capacityFault k s h) (fun s h => hb _ s h)
        split at he
        · rename_i u hu; rw [hu] at h2; cases he; exact h2
        · rename_i u hu; rw [hu] at h2; exact ih u h2 he

/-! ## Container and orchestrator (45_container_orchestrator.md) -/

theorem serBody_unchanged (s : State) :
    unchangedBut (Part.errors ++ [.plain]) s (serBody s).state := by
  unfold serBody
  refine unchangedBut_trans ?_ (appendAll_unchanged_plain _ _)
  exact unchangedBut_mono (setBuf_unchanged_plain s Buffer.empty) (by decide +kernel)

theorem frames_unchanged (s : State) (n : BitVec 32) : unchangedBut [.frames] s { s with frames := n } := by
  intro p hp
  cases p <;>
    first
    | exact rfl | exact sameReads_refl _ | exact sameBytes_refl _
    | exact absurd (by decide +kernel) hp

/-- What noting a missing byte and appending keep, the copy of the header keeps (R323). -/
theorem copyHeader_keeps {P : State → Prop} (n a : Nat) (s : State) (h : P s)
    (hm : ∀ m s, P s → P (noteMissing m s)) (hr : ∀ n s, P s → P (raise .capacityFault n s))
    (hb : ∀ v s, P s → P (s.setBuf .obuf ((s.buf .obuf).append v))) : P (copyHeader n a s).state := by
  induction n generalizing a s with
  | zero => exact h
  | succ n ih =>
    exact Flow.state_bind (P := P)
      (append_keeps (P := P) .obuf (s.ibuf.read a) _ (hm _ s h) hr (hb _)) (fun _ h => h)
      (fun s h => ih _ s h)

/-- What each part of the container writer keeps, it keeps (R323). -/
theorem writeFrame_keeps {P : State → Prop} (s : State) (h : P s)
    (hm : ∀ m s, P s → P (noteMissing m s)) (hr : ∀ n s, P s → P (raise .capacityFault n s))
    (hb : ∀ v s, P s → P (s.setBuf .obuf ((s.buf .obuf).append v)))
    (hf : ∀ s, P s → P { s with frames := s.frames + 1 }) : P (writeFrame s).state := by
  unfold writeFrame
  refine Flow.state_bind (P := P) (copyHeader_keeps _ _ s h hm hr hb) (fun _ h => h) fun s h => ?_
  refine Flow.state_bind (P := P) (appendAll_keeps .obuf _ s h hr hb) (fun _ h => h) fun s h => ?_
  refine Flow.state_bind (P := P) (appendAll_keeps .obuf _ s h hr hb) (fun _ h => h) fun s h => ?_
  exact hf s h

theorem emitFrame_unchanged (s : State) :
    unchangedBut (Part.errors ++ [.obuf, .frames]) s (emitFrame s).state := by
  unfold emitFrame
  split
  · exact unchangedBut_mono (raise_unchanged _ _ _) (by decide +kernel)
  · exact writeFrame_keeps (P := unchangedBut (Part.errors ++ [.obuf, .frames]) s) s
      (unchangedBut_refl _ _)
      (fun _ _ h => unchangedBut_then h (by decide +kernel) (noteMissing_unchanged _ _))
      (fun _ _ h => unchangedBut_then h (by decide +kernel) (raise_unchanged _ _ _))
      (fun _ _ h => unchangedBut_then h (by decide +kernel) (setBuf_unchanged_obuf _ _))
      (fun _ h => unchangedBut_then h (by decide +kernel) (frames_unchanged _ _))

theorem emitBody_unchanged (s : State) :
    unchangedBut (Part.errors ++ [.plain, .code, .ac, .acMode, .obuf, .frames]) s
      (emitBody s).state := by
  unfold emitBody
  refine Flow.state_bind
    (P := unchangedBut (Part.errors ++ [.plain, .code, .ac, .acMode, .obuf, .frames]) s) ?_
    (fun _ h => h) (fun t ht => unchangedBut_then ht (by decide +kernel) (emitFrame_unchanged t))
  refine Flow.state_bind
    (P := unchangedBut (Part.errors ++ [.plain, .code, .ac, .acMode, .obuf, .frames]) s) ?_
    (fun _ h => h) (fun t ht => unchangedBut_then ht (by decide +kernel) (acencBody_unchanged t))
  exact unchangedBut_mono (serBody_unchanged s) (by decide +kernel)

theorem zeroGranules_unchanged (s : State) :
    unchangedBut [.samp, .scfL, .scfS, .si] s (zeroGranules s) := by
  intro p hp
  cases p <;>
    first
    | exact rfl | exact sameReads_refl _ | exact sameBytes_refl _
    | exact absurd (by decide +kernel) hp

/-- What `SCF` and `SPEC` keep, decoding the granules keeps (R326). -/
theorem decodeGranules_keeps {P : State → Prop} (l : List (Fin 2 × Fin 2)) (s : State) (h : P s)
    (hs : ∀ p ∈ l, ∀ s, P s → P (scfBody p.1 p.2 s)) (hp : ∀ p ∈ l, ∀ s, P s → P (specBody p.1 p.2 s).1) :
    P (decodeGranules l s) := by
  induction l generalizing s with
  | nil => exact h
  | cons p l ih =>
    obtain ⟨gr, ch⟩ := p
    have h1 := hp (gr, ch) (by simp) _ (hs (gr, ch) (by simp) s h)
    unfold decodeGranules
    split
    · rename_i s' he
      rw [he] at h1
      exact ih s' h1 (fun p hm => hs p (by simp [hm])) (fun p hm => hp p (by simp [hm]))
    · rename_i s' he
      rw [he] at h1
      exact h1

/-- The parts that decoding the granules writes. -/
def granuleParts : List Part :=
  Part.errors ++ [.p2start, .cur, .scfL, .scfS, .samp, .idx, .si]

theorem decodeGranules_unchanged (l : List (Fin 2 × Fin 2)) (s : State) :
    unchangedBut granuleParts s (decodeGranules l s) :=
  decodeGranules_keeps (P := unchangedBut granuleParts s) l s (unchangedBut_refl _ _)
    (fun _ _ _ h => unchangedBut_then h (by decide +kernel) (scfBody_unchanged _ _ _))
    (fun _ _ _ h => unchangedBut_then h (by decide +kernel) (specBody_unchanged _ _ _))

theorem frameDecode_unchanged (s : State) :
    unchangedBut (granuleParts ++ [.mdb, .siPrivate, .scfsi, .siValid, .mdValid, .mdbuf]) s
      (frameDecode s) := by
  have h : unchangedBut (granuleParts ++ [.mdb, .siPrivate, .scfsi, .siValid, .mdValid, .mdbuf]) s
      (resvBody (zeroGranules (sideBody s))) := by
    refine unchangedBut_then (unchangedBut_then (unchangedBut_mono (sideBody_unchanged s) ?_) ?_
      (zeroGranules_unchanged _)) ?_ (resvBody_unchanged _)
    all_goals decide +kernel
  unfold frameDecode
  simp only
  split
  · exact unchangedBut_then h (by decide +kernel) (decodeGranules_unchanged _ _)
  · exact h

theorem skipByte_unchanged (s : State) : unchangedBut [.foff, .skipped, .ring] s (skipByte s) := by
  intro p hp
  cases p <;>
    first
    | exact rfl | exact sameReads_refl _ | exact sameBytes_refl _
    | exact absurd (by decide +kernel) hp

theorem skipFrame_unchanged (s : State) :
    unchangedBut (Part.errors ++ [.foff, .skipped, .ring, .hValid]) s (skipFrame s) := by
  unfold skipFrame
  refine unchangedBut_trans (unchangedBut_mono (raise_unchanged .unsupportedFrame s.foff.toNat s) (by decide +kernel)) ?_
  intro p hp
  cases p <;>
    first
    | exact rfl | exact sameReads_refl _ | exact sameBytes_refl _
    | exact absurd (by decide +kernel) hp

theorem done_unchanged (s : State) : unchangedBut [.done] s { s with done := true } := by
  intro p hp
  cases p <;>
    first
    | exact rfl | exact sameReads_refl _ | exact sameBytes_refl _
    | exact absurd (by decide +kernel) hp

theorem frameAfterHdr_unchanged (s : State) : unchangedBut Part.ofFrame s (frameAfterHdr s).state := by
  unfold frameAfterHdr
  split
  · exact unchangedBut_mono (skipByte_unchanged s) (by decide +kernel)
  · split
    · exact unchangedBut_mono (skipFrame_unchanged s) (by decide +kernel)
    · refine Flow.state_bind (P := unchangedBut Part.ofFrame s) ?_ (fun _ h => h)
        (fun t ht => unchangedBut_then ht (by decide +kernel) (advBody_unchanged t))
      exact unchangedBut_trans (unchangedBut_mono (frameDecode_unchanged s) (by decide +kernel))
        (unchangedBut_mono (emitBody_unchanged _) (by decide +kernel))

theorem frameBody_unchanged (s : State) : unchangedBut Part.ofFrame s (frameBody s).state := by
  unfold frameBody
  split
  · exact unchangedBut_trans (unchangedBut_mono (hdrBody_unchanged s) (by decide +kernel))
      (frameAfterHdr_unchanged _)
  · exact unchangedBut_mono (done_unchanged s) (by decide +kernel)

/-- What `FRAME` and the end of `RUN` keep, the loop of `RUN` keeps (R328). -/
theorem runLoop_keeps {P : State → Prop} (n : Nat) (s t : State) (h : P s)
    (he : runLoop n s = .next t) (hf : ∀ s, P s → P (frameBody s).state) (hend : ∀ s, P s → P (runEnd s)) :
    P t := by
  induction n generalizing s with
  | zero =>
    unfold runLoop at he
    split at he
    · cases he
    · cases he; exact hend s h
  | succ n ih =>
    unfold runLoop at he
    split at he
    · have h1 := hf s h
      split at he
      · rename_i u hu; rw [hu] at h1; cases he; exact h1
      · rename_i u hu; rw [hu] at h1; exact ih u h1 he
    · cases he; exact hend s h

end Sys2Proof.Machine
end

