-- ==== Sys2Proof/Laws/Kept.lean ====
section
/-! SUPPORT. One induction over the machine, packaged once: a predicate that each elementary action of the
block keeps is kept by every command, and, with the host's own actions, by every step. An invariant is then
proved by one small lemma for each elementary action. -/

namespace Sys2Proof.Machine

/-- A predicate that every elementary action inside a command keeps. Each action comes with what the
commands guarantee where they take it. -/
structure Kept (P : State → Prop) : Prop where
  raise : ∀ c n s, P s → P (raise c n s)
  sinit : ∀ s, P s → P (sinitBody s)
  hdr : ∀ s, P s → P (hdrBody s)
  side : ∀ s, s.hValid = true → s.supported = true → P s → P (sideBody s)
  resv : ∀ s, s.siValid = true → P s → P (resvBody s)
  scf : ∀ gr ch s, s.mdValid = true → P s → P (scfBody gr ch s)
  adv : ∀ s, P s → P (advBody s)
  pair : ∀ gr ch t s, s.idx.toNat + 2 ≤ 576 → P s → P (pairBody gr ch t s).1
  quad : ∀ gr ch sel s, s.idx.toNat + 4 ≤ 576 → P s → P (quadBody gr ch sel s).1
  specStart : ∀ gr ch s, P s → P (specStart gr ch s)
  specEnd : ∀ gr ch stop s, s.idx.toNat ≤ 576 → P s → P (specEnd gr ch stop s)
  acinit : ∀ d s, P s → P (acinitBody d s)
  enc : ∀ y s, s.acMode = .encoding → P s → P (encBody y s).state
  dec : ∀ s, s.acMode = .decoding → P s → P (decBody s).1
  flush : ∀ s, s.acMode = .encoding → P s → P (flushBody s).state
  idle : ∀ s, P s → P { s with acMode := .idle }
  appendPlain : ∀ v s, P s → P { s with plain := s.plain.append v }
  clearPlain : ∀ s, P s → P { s with plain := Buffer.empty }
  appendObuf : ∀ v s, P s → P { s with obuf := s.obuf.append v }
  countFrame : ∀ s, P s → P { s with frames := s.frames + 1 }
  zero : ∀ s, P s → P (zeroGranules s)
  skipByte : ∀ s, s.hValid = false → s.siValid = false → P s → P (skipByte s)
  skipFrame : ∀ s, s.siValid = false → P s → P (skipFrame s)
  done : ∀ s, P s → P { s with done := true }

/-- A predicate that the actions between commands keep too: accepting a word, the commands that only
clear, the bit reader, and what the host does. -/
structure KeptByStep (P : State → Prop) : Prop extends Kept P where
  accept : ∀ s, P s → P (accept s)
  clearErrors : ∀ s, P s → P (clearErrors s)
  srst : ∀ s, P s → P (srstBody s)
  rdbits : ∀ b adv n s, P s → P (rdbitsBody b adv n s)
  regWrite : ∀ n v s, P s → P (s.regWrite n v)
  bufLoad : ∀ b bytes s, b ≠ .mdbuf → b ≠ .obuf → P s → P (s.bufLoad b bytes)
  readout : ∀ ws s, P s → P { s with readout := ws }
  host : ∀ ops s, P s → P { s with host := ops }

/-! ## What the sub-steps guarantee one another -/

theorem same_of {l : List Part} {s t : State} (h : unchangedBut l s t) {p : Part} (hp : p ∉ l) :
    p.same s t := h p hp

theorem encBody_acMode (y : Bool) (s : State) : (encBody y s).state.acMode = s.acMode :=
  encBody_unchanged y s .acMode (by decide)

theorem decBody_acMode (s : State) : (decBody s).1.acMode = s.acMode := rfl

theorem hdrBody_siValid (s : State) : (hdrBody s).siValid = false := by
  unfold hdrBody; simp only; split <;> simp

theorem hdrBody_mdValid (s : State) : (hdrBody s).mdValid = false := by
  unfold hdrBody; simp only; split <;> simp

theorem sideBody_siValid (s : State) : (sideBody s).siValid = true := by simp [sideBody]

theorem pairBody_mdValid (gr ch : Fin 2) (t : Nat) (s : State) :
    (pairBody gr ch t s).1.mdValid = s.mdValid := pairBody_unchanged gr ch t s .mdValid (by decide)

/-- `IDX` after a word: as it was on a failure, else one on for each value (R235, R238). -/
theorem storeWord_idx (gr ch : Fin 2) (vs : Option (List Int)) (c : Cursor) (s : State) :
    (storeWord gr ch vs c s).1.idx =
      match vs with
      | none => s.idx
      | some vs => s.idx + BitVec.ofNat 10 vs.length := by
  unfold storeWord
  cases vs <;> simp

theorem storeWord_snd (gr ch : Fin 2) (vs : Option (List Int)) (c : Cursor) (s : State) :
    (storeWord gr ch vs c s).2 = vs.isSome := by
  unfold storeWord; cases vs <;> rfl

/-- A quad word has four values. -/
theorem readQuad_length {cfg : Config} {b : Buffer} {sel : Bool} {c : Cursor} {vs : List Int}
    (h : (readQuad cfg b sel c).1 = some vs) : vs.length = 4 := by
  unfold readQuad at h
  split at h
  · cases h
  · cases h; rfl

theorem pairBody_idx (gr ch : Fin 2) (t : Nat) (s : State) :
    (pairBody gr ch t s).1.idx = if (pairBody gr ch t s).2 then s.idx + 2 else s.idx := by
  unfold pairBody
  simp only [storeWord_idx, storeWord_snd]
  cases (readPair s.cfg s.mdbuf t s.cursor).1 <;> simp

theorem quadBody_idx (gr ch : Fin 2) (sel : Bool) (s : State) :
    (quadBody gr ch sel s).1.idx = if (quadBody gr ch sel s).2 then s.idx + 4 else s.idx := by
  unfold quadBody
  simp only [storeWord_idx, storeWord_snd]
  cases h : (readQuad s.cfg s.mdbuf sel s.cursor).1 with
  | none => simp
  | some vs => simp [readQuad_length h]

theorem idx_add {i : BitVec 10} {k : Nat} (h : i.toNat + k ≤ 576) : (i + BitVec.ofNat 10 k).toNat = i.toNat + k := by
  rw [BitVec.toNat_add, BitVec.toNat_ofNat]
  omega

/-- `IDX` is even in the big-value region, so a pair below `bvend ≤ 576` has room (R239). -/
theorem bvEnd_even (g : SideBlock) : bvEnd g % 2 = 0 := by unfold bvEnd; omega

theorem bvEnd_le (g : SideBlock) : bvEnd g ≤ 576 := by unfold bvEnd; omega

/-- The big-value loop with all that its guard guarantees: `IDX` even and at most 576 throughout (R240). -/
theorem pairLoop_keeps_idx {P : State → Prop} (gr ch : Fin 2) (g : SideBlock) (n : Nat) (s : State)
    (h : P s) (he : s.idx.toNat % 2 = 0) (hle : s.idx.toNat ≤ 576)
    (hw : ∀ t s, s.idx.toNat + 2 ≤ 576 → P s → P (pairBody gr ch t s).1) :
    P (pairLoop gr ch g n s).1 ∧ (pairLoop gr ch g n s).1.idx.toNat ≤ 576 := by
  have key : ∀ s : State, s.idx.toNat < bvEnd g → s.idx.toNat % 2 = 0 → s.idx.toNat + 2 ≤ 576 := by
    intro s h1 h2
    have := bvEnd_even g
    have := bvEnd_le g
    omega
  have := pairLoop_keeps (P := fun s => P s ∧ s.idx.toNat % 2 = 0 ∧ s.idx.toNat ≤ 576) gr ch g n s
    ⟨h, he, hle⟩ (fun t s hlt hs => by
      have hroom := key s hlt hs.2.1
      refine ⟨hw t s hroom hs.1, ?_⟩
      rw [pairBody_idx]
      split
      · have := idx_add (i := s.idx) (k := 2) hroom
        change (s.idx + BitVec.ofNat 10 2).toNat % 2 = 0 ∧ (s.idx + BitVec.ofNat 10 2).toNat ≤ 576
        rw [this]
        omega
      · exact hs.2)
  exact ⟨this.1, this.2.2⟩

theorem quadLoop_keeps_idx {P : State → Prop} (gr ch : Fin 2) (g : SideBlock) (stop n : Nat) (s : State)
    (h : P s) (hle : s.idx.toNat ≤ 576)
    (hw : ∀ sel s, s.idx.toNat + 4 ≤ 576 → P s → P (quadBody gr ch sel s).1) :
    P (quadLoop gr ch g stop n s).1 ∧ (quadLoop gr ch g stop n s).1.idx.toNat ≤ 576 :=
  quadLoop_keeps (P := fun s => P s ∧ s.idx.toNat ≤ 576) gr ch g stop n s ⟨h, hle⟩
    (fun sel s hroom hs => by
      refine ⟨hw sel s hroom hs.1, ?_⟩
      rw [quadBody_idx]
      split
      · change (s.idx + BitVec.ofNat 10 4).toNat ≤ 576
        rw [idx_add hroom]
        exact hroom
      · exact hs.2)

/-- Both loops of `SPEC` from `IDX = 0`: what the words keep, and `IDX ≤ 576` at the end (R240). -/
theorem specLoops_keeps_idx {P : State → Prop} (gr ch : Fin 2) (g : SideBlock) (stop : Nat) (s : State)
    (h : P s) (h0 : s.idx = 0)
    (hp : ∀ t s, s.idx.toNat + 2 ≤ 576 → P s → P (pairBody gr ch t s).1)
    (hq : ∀ sel s, s.idx.toNat + 4 ≤ 576 → P s → P (quadBody gr ch sel s).1) :
    P (specLoops gr ch g stop s).1 ∧ (specLoops gr ch g stop s).1.idx.toNat ≤ 576 := by
  have h1 := pairLoop_keeps_idx gr ch g 288 s h (by rw [h0]; rfl) (by rw [h0]; decide) hp
  unfold specLoops
  split
  · rename_i s' he
    rw [he] at h1
    exact quadLoop_keeps_idx gr ch g stop 144 s' h1.1 h1.2 hq
  · rename_i s' he
    rw [he] at h1
    exact h1

namespace Kept

variable {P : State → Prop}

theorem noteMissing (K : Kept P) (m : Option Nat) (s : State) (h : P s) : P (noteMissing m s) := by
  cases m with
  | none => exact h
  | some n => exact K.raise _ _ _ h

theorem spec (K : Kept P) (gr ch : Fin 2) (s : State) (h : P s) : P (specBody gr ch s).1 := by
  unfold specBody
  simp only
  have h1 := specLoops_keeps_idx gr ch (s.si.get gr ch) (s.granuleEnd (s.si.get gr ch))
    (Sys2Proof.Machine.specStart gr ch s) (K.specStart gr ch s h) rfl
    (fun t s => K.pair gr ch t s) (fun sel s => K.quad gr ch sel s)
  exact K.specEnd _ _ _ _ h1.2 h1.1

theorem encBits (K : Kept P) (ys : List Bool) (s : State) (hm : s.acMode = .encoding) (h : P s) :
    P (encBits ys s).state ∧ (Sys2Proof.Machine.encBits ys s).state.acMode = .encoding :=
  encBits_keeps (P := fun s => P s ∧ s.acMode = .encoding) ys s ⟨h, hm⟩ fun y s hs =>
    ⟨K.enc y s hs.2 hs.1, (encBody_acMode y s).trans hs.2⟩

theorem acenc (K : Kept P) (s : State) (h : P s) : P (acencBody s).state := by
  unfold acencBody
  exact Flow.state_bind (P := fun s => P s ∧ s.acMode = .encoding)
    (K.encBits _ (acinitBody .encode s) rfl (K.acinit _ _ h)) (fun _ h => h.1)
    (fun s h => K.flush s h.2 h.1)

theorem acdecLoop (K : Kept P) (n : Nat) (s t : State) (hm : s.acMode = .decoding) (h : P s)
    (he : acdecLoop n s = .next t) : P t := by
  induction n generalizing s with
  | zero => simp [Sys2Proof.Machine.acdecLoop] at he
  | succ n ih =>
    unfold Sys2Proof.Machine.acdecLoop at he
    split at he
    · cases he; exact K.idle _ (K.raise _ _ _ h)
    · have h1 := K.dec s hm h
      have m1 := (decBody_acMode s).trans hm
      split at he
      · rename_i s' hs; rw [hs] at h1; cases he; exact K.idle _ h1
      · rename_i s' hs
        rw [hs] at h1 m1
        have h8 := decBits_keeps (P := fun s => P s ∧ s.acMode = .decoding) 8 0 s' ⟨h1, m1⟩
          (fun s hs => ⟨K.dec s hs.2 hs.1, (decBody_acMode s).trans hs.2⟩)
        have h2 := append_keeps (P := fun s => P s ∧ s.acMode = .decoding) .plain
          (BitVec.ofNat 8 (decBits 8 0 s').2) _ h8
          (fun k s h => ⟨K.raise .capacityFault k s h.1, h.2⟩) (fun s h => ⟨K.appendPlain _ s h.1, h.2⟩)
        split at he
        · rename_i u hu; rw [hu] at h2; cases he; exact h2.1
        · rename_i u hu; rw [hu] at h2; exact ih u h2.2 h2.1 he

theorem ser (K : Kept P) (s : State) (h : P s) : P (serBody s).state := by
  unfold serBody
  exact appendAll_keeps (P := P) .plain _ _ (K.clearPlain s h) (fun _ _ h => K.raise _ _ _ h)
    (fun v s h => K.appendPlain v s h)

theorem emitFrame (K : Kept P) (s : State) (h : P s) : P (emitFrame s).state := by
  unfold Sys2Proof.Machine.emitFrame
  split
  · exact K.raise _ _ _ h
  · exact writeFrame_keeps (P := P) s h (fun m s h => K.noteMissing m s h) (fun _ _ h => K.raise _ _ _ h)
      (fun v s h => K.appendObuf v s h) (fun s h => K.countFrame s h)

theorem emit (K : Kept P) (s : State) (h : P s) : P (emitBody s).state := by
  unfold emitBody
  refine Flow.state_bind (P := P) ?_ (fun _ h => h) (fun s h => K.emitFrame s h)
  exact Flow.state_bind (P := P) (K.ser s h) (fun _ h => h) (fun s h => K.acenc s h)

theorem decodeGranules (K : Kept P) (l : List (Fin 2 × Fin 2)) (s : State) (hm : s.mdValid = true)
    (h : P s) : P (decodeGranules l s) := by
  have := decodeGranules_keeps (P := fun s => P s ∧ s.mdValid = true) l s ⟨h, hm⟩
    (fun p _ s hs => ⟨K.scf _ _ s hs.2 hs.1, (scfBody_unchanged p.1 p.2 s .mdValid (by decide)).trans hs.2⟩)
    (fun p _ s hs => ⟨K.spec _ _ s hs.1, (specBody_unchanged p.1 p.2 s .mdValid (by decide)).trans hs.2⟩)
  exact this.1

theorem frameDecode (K : Kept P) (s : State) (hv : s.hValid = true) (hs : s.supported = true) (h : P s) :
    P (frameDecode s) := by
  have h1 := K.resv _ (show (zeroGranules (sideBody s)).siValid = true from sideBody_siValid s)
    (K.zero _ (K.side s hv hs h))
  unfold Sys2Proof.Machine.frameDecode
  simp only
  split
  · rename_i hm; exact K.decodeGranules _ _ hm h1
  · exact h1

theorem frame (K : Kept P) (s : State) (h : P s) : P (frameBody s).state := by
  unfold frameBody
  split
  · have h1 := K.hdr s h
    have hsi := hdrBody_siValid s
    generalize hdrBody s = u at h1 hsi ⊢
    unfold frameAfterHdr
    split
    · rename_i hv; exact K.skipByte u (by simpa using hv) hsi h1
    · rename_i hv
      split
      · exact K.skipFrame u hsi h1
      · rename_i hs
        exact Flow.state_bind (P := P) (K.emit _ (K.frameDecode u (by simpa using hv) (by simpa using hs) h1))
          (fun _ h => h) (fun s h => K.adv s h)
  · exact K.done s h

theorem runEnd (K : Kept P) (s : State) (h : P s) : P (runEnd s) := by
  unfold Sys2Proof.Machine.runEnd
  split
  · exact K.done _ (K.raise _ _ _ h)
  · exact K.done _ h

theorem run (K : Kept P) (s t : State) (h : P s) (he : runBody (sinitBody s) = .next t) : P t := by
  have h1 := K.sinit s h
  unfold runBody at he
  split at he
  · cases he; exact K.done _ (K.raise _ _ _ h1)
  · exact runLoop_keeps (P := P) _ _ t h1 he (fun s h => K.frame s h) (fun s h => K.runEnd s h)

/-- A command with a precondition keeps what its body and a raise keep. -/
theorem guarded (K : Kept P) {i : Instr} {pre : State → Bool} {body : State → State} {s t : State}
    (h : P (accept s)) (he : guarded i pre body s = .next t)
    (hb : pre (accept s) = true → P (accept s) → P (body (accept s))) : P t := by
  rcases guarded_cases he with ⟨hp, rfl⟩ | ⟨_, rfl⟩
  · exact hb hp h
  · exact K.raise _ _ _ h

end Kept

namespace KeptByStep

variable {P : State → Prop}

/-- Every command keeps it. -/
theorem exec (K : KeptByStep P) (i : Instr) (s t : State) (h : P s) (he : exec i s = .next t) : P t := by
  have ha := K.accept s h
  cases i with
  | nop => cases he; exact ha
  | srst => cases he; exact K.srst _ ha
  | clrerr => cases he; exact K.clearErrors _ ha
  | sinit => cases he; exact K.sinit _ ha
  | rdbits b adv n =>
    change execRdbits b adv n s = .next t at he
    unfold execRdbits at he
    split at he
    · cases he; exact K.rdbits _ _ _ _ ha
    · cases he; exact K.raise _ _ _ ha
  | hdr => cases he; exact K.hdr _ ha
  | side =>
    refine K.guarded ha he fun hp => K.side _ ?_ ?_
    · simp only [sidePre, Bool.and_eq_true] at hp; exact hp.1
    · simp only [sidePre, Bool.and_eq_true] at hp; exact hp.2
  | resv => exact K.guarded ha he fun hp => K.resv _ hp
  | scf gr ch =>
    refine K.guarded ha he fun hp => K.scf gr ch _ ?_
    simp only [granulePre, Bool.and_eq_true] at hp; exact hp.1
  | adv => exact K.guarded ha he fun _ => K.adv _
  | hufpair gr ch tbl =>
    change execHufpair gr ch tbl s = .next t at he
    unfold execHufpair at he
    refine K.guarded ha he fun hp => K.pair gr ch tbl.val _ ?_
    simp only [pairPre, Bool.and_eq_true, decide_eq_true_eq] at hp; exact hp.2
  | hufquad gr ch sel =>
    change execHufquad gr ch sel s = .next t at he
    unfold execHufquad at he
    refine K.guarded ha he fun hp => K.quad gr ch sel _ ?_
    simp only [quadPre, Bool.and_eq_true, decide_eq_true_eq] at hp; exact hp.2
  | spec gr ch =>
    change execSpec gr ch s = .next t at he
    unfold execSpec at he
    exact K.guarded ha he fun _ => K.toKept.spec gr ch _
  | acinit dir => cases he; exact K.acinit _ _ ha
  | acencb y =>
    change execAcencb y s = .next t at he
    unfold execAcencb at he
    exact K.guarded ha he fun hp => K.enc y _ (by simpa using hp)
  | acdecb =>
    change execAcdecb s = .next t at he
    unfold execAcdecb at he
    exact K.guarded ha he fun hp => K.dec _ (by simpa using hp)
  | acflush =>
    change execAcflush s = .next t at he
    unfold execAcflush at he
    exact K.guarded ha he fun hp => K.flush _ (by simpa using hp)
  | acenc => cases he; exact K.toKept.acenc _ ha
  | acdec => exact K.toKept.acdecLoop _ _ t rfl (K.acinit .decode _ ha) he
  | ser =>
    change execSer s = .next t at he
    unfold execSer at he
    exact K.guarded ha he fun _ => K.toKept.ser _
  | emit =>
    change execEmit s = .next t at he
    unfold execEmit at he
    exact K.guarded ha he fun _ => K.toKept.emit _
  | frame => cases he; exact K.toKept.frame _ ha
  | run => exact K.toKept.run _ t ha he

/-- Every step keeps it. -/
theorem step (K : KeptByStep P) (s t : State) (h : P s) (he : step s = .next t) : P t := by
  unfold Sys2Proof.Machine.step takeAction at he
  split at he
  · cases he; exact h
  · rename_i op rest _
    have h1 := K.host rest s h
    generalize ({ s with host := rest } : State) = u at h1 he
    have load : ∀ b bytes, b ≠ BufId.mdbuf → b ≠ BufId.obuf → hostLoad b bytes u = .next t → P t := by
      intro b bytes hb1 hb2 hl
      unfold hostLoad at hl
      split at hl
      · cases hl; exact K.bufLoad b bytes u hb1 hb2 h1
      · cases hl
    cases op with
    | regWrite n v =>
      change hostWrite n v u = .next t at he
      unfold hostWrite at he
      split at he
      · unfold issue at he
        split at he
        · exact K.exec _ u t h1 he
        · cases he; exact K.raise _ _ _ (K.accept _ h1)
      · cases he; exact K.regWrite n v u h1
    | loadIbuf bytes => exact load .ibuf bytes (by decide) (by decide) he
    | loadPlain bytes => exact load .plain bytes (by decide) (by decide) he
    | loadCode bytes => exact load .code bytes (by decide) (by decide) he
    | regRead n => cases he; exact K.readout _ u h1
    | bufRead b a n => cases he; exact K.readout _ u h1
    | sampRead gr ch i => cases he; exact K.readout _ u h1
    | scfLRead gr ch sfb => cases he; exact K.readout _ u h1
    | scfSRead gr ch win sfb => cases he; exact K.readout _ u h1
    | cntRead r c y => cases he; exact K.readout _ u h1

end KeptByStep

end Sys2Proof.Machine
end

