-- ==== Sys2Proof/Laws/Reference.lean ====
section
/-! SUPPORT. The primitives of the reference pseudocode in closed form: the bit loop of `ReadBits`, `Take`,
and the sequential reader. -/

namespace Sys2Proof.Machine

/-- Noting a missing bit or raising leaves every buffer as it was. -/
@[simp] theorem noteMissing_buf (m : Option Nat) (s : State) (b : BufId) :
    (noteMissing m s).buf b = s.buf b := by
  cases m <;> cases b <;> rfl

@[simp] theorem raise_buf (c : Cond) (n : Nat) (s : State) (b : BufId) :
    (raise c n s).buf b = s.buf b := by cases b <;> rfl

/-- Bit `i` as the rule computes it from its byte: `(S[a] >> (7 - i mod 8)) & 1` (R164). -/
theorem Buffer.bit_toNat (b : Buffer) (i : Nat) :
    (b.bit i).toNat = (b.read (i / 8)).toNat / 2 ^ (7 - i % 8) % 2 := by
  unfold Buffer.bit
  have h : i % 8 < 8 := Nat.mod_lt _ (by decide)
  rw [BitVec.getMsbD_eq_getLsbD, BitVec.getLsbD]
  simp only [h, decide_true, Bool.true_and]
  rw [Nat.testBit_eq_decide_div_mod_eq, show 8 - 1 - i % 8 = 7 - i % 8 by omega]
  rcases Nat.mod_two_eq_zero_or_one ((b.read (i / 8)).toNat / 2 ^ (7 - i % 8)) with h0 | h0 <;> simp [h0]

theorem missing_one_of_lt {b : Buffer} {i : Nat} (h : i / 8 < b.len) : b.missing i 1 = none :=
  Buffer.missing_of_le (by omega)

theorem missing_one_of_ge {b : Buffer} {i : Nat} (h : b.len ≤ i / 8) : b.missing i 1 = some i := by
  unfold Buffer.missing
  rw [if_pos (by omega)]
  congr 1; omega

end Sys2Proof.Machine

namespace Sys2Proof.Reference

open Sys2Proof.Machine

theorem readBitsFrom_eq (b : BufId) (off n i v : Nat) (s : State) :
    readBitsFrom b off n i v s =
      (v * 2 ^ n + (s.buf b).bits (off + i) n, noteMissing ((s.buf b).missing (off + i) n) s) := by
  induction n generalizing i v s with
  | zero => simp [readBitsFrom]
  | succ n ih =>
    have hb := Buffer.bits_add (s.buf b) (off + i) 1 n
    have hm := Buffer.missing_add (s.buf b) (off + i) 1 n
    rw [Nat.add_comm 1 n] at hb hm
    unfold readBitsFrom
    simp only
    split
    · rename_i h
      rw [ih, hm, missing_one_of_lt h, Option.none_or, Nat.add_assoc, hb, Buffer.bits_one,
        Buffer.bit_toNat, ← Nat.add_assoc]
      congr 1
      ring_nf
    · rename_i h
      have h := Nat.le_of_not_lt h
      rw [ih, hm, missing_one_of_ge h, Nat.add_assoc, hb, Buffer.bits_one, Buffer.bit_of_ge (by omega),
        noteMissing_or]
      simp only [raise_buf, Bool.toNat_false, Nat.zero_mul, Nat.zero_add, noteMissing_some]
      congr 1
      ring_nf

/-- `ReadBits` bit by bit gives the value of the slice and raises at the first missing bit (R164). -/
theorem readBits_eq (b : BufId) (off n : Nat) (s : State) :
    readBits b off n s = ((s.buf b).bits off n, noteMissing ((s.buf b).missing off n) s) := by
  unfold readBits
  rw [readBitsFrom_eq]
  simp

/-- `Take` is a cursor's read (00_scope.md R10). -/
theorem take_eq (b : BufId) (n : Nat) (s : State) :
    take b n s =
      ((s.buf b).bits s.cur.toNat n,
        { noteMissing ((s.buf b).missing s.cur.toNat n) s with cur := s.cur + BitVec.ofNat 32 n }) := by
  unfold take
  rw [readBits_eq]
  simp

/-- One field of the sequential reader of R190. -/
theorem r_eq (n pos : Nat) (s : State) :
    r n (pos, s) = (s.ibuf.bits pos n, (pos + n, noteMissing (s.ibuf.missing pos n) s)) := by
  unfold r
  simp only [readBits_eq]
  rfl

/-- A reader that takes `n` bits in order and returns `f` of the buffer and the position. -/
def Reads {α : Type} (m : Reader α) (n : Nat) (f : Buffer → Nat → α) : Prop :=
  ∀ pos s, m (pos, s) = (f s.ibuf pos, (pos + n, noteMissing (s.ibuf.missing pos n) s))

theorem reads_r (n : Nat) : Reads (r n) n fun b pos => b.bits pos n := fun pos s => r_eq n pos s

theorem reads_pure {α : Type} (x : α) : Reads (pure x) 0 fun _ _ => x := by
  intro pos s
  rw [Buffer.missing_zero]
  rfl

/-- Readers one after another: the second begins where the first ends, and the first missing bit of the
whole is what is recorded (60_exceptions.md R351). -/
theorem reads_bind {α β : Type} {m : Reader α} {k : α → Reader β} {n n' : Nat} {f : Buffer → Nat → α}
    {g : α → Buffer → Nat → β} (hm : Reads m n f) (hk : ∀ x, Reads (k x) n' (g x)) :
    Reads (m >>= k) (n + n') fun b pos => g (f b pos) b (pos + n) := by
  intro pos s
  change k (m (pos, s)).1 (m (pos, s)).2 = _
  rw [hm, hk, noteMissing_ibuf, Buffer.missing_add, noteMissing_or, Nat.add_assoc]

end Sys2Proof.Reference
end

