-- ==== Sys2Proof/Laws/Coder.lean ====
section
/-! SUPPORT. The arithmetic coder in numbers: the split point, the top bytes, the shift, the counts
(44_arithmetic_coder.md R282 to R287). -/

namespace Sys2Proof.Machine

/-! ## The split point (R282, R285) -/

/-- The estimate never reaches 4096 (R282). -/
theorem probOf_le (n0 n1 : Nat) : probOf n0 n1 ≤ 4095 := by
  unfold probOf
  rw [← Nat.lt_succ_iff, Nat.div_lt_iff_lt_mul (by omega)]
  omega

theorem Coder.prob_le (c : Coder) (r : Nat) : c.prob r ≤ 4095 := probOf_le _ _

/-- The exact split stays below the upper bound of an interval of two values or more (R285). -/
theorem split_lt {d p : Nat} (hp : p ≤ 4095) (hd : 0 < d) : d / 4096 * p < d := by
  rcases Nat.eq_zero_or_pos (d / 4096) with h | h
  · rw [h]; omega
  · have h1 : d / 4096 * p ≤ d / 4096 * 4095 := Nat.mul_le_mul_left _ hp
    have h2 := Nat.div_mul_le_self d 4096
    omega

theorem split_le {d p : Nat} (hp : p ≤ 4095) : d / 4096 * p ≤ d := by
  rcases Nat.eq_zero_or_pos d with h | h
  · subst h; simp
  · exact Nat.le_of_lt (split_lt hp h)

/-- The 32-bit split point is the exact number (R285: "32-bit, no overflow"). -/
theorem Coder.mid_toNat (c : Coder) (r : Nat) (h : c.low.toNat ≤ c.high.toNat) :
    (c.mid r).toNat = c.low.toNat + (c.high.toNat - c.low.toNat) / 4096 * c.prob r := by
  have hp := c.prob_le r
  have hh := c.high.isLt
  have hs := split_le (d := c.high.toNat - c.low.toNat) hp
  unfold Coder.mid
  have h1 : (c.high - c.low).toNat = c.high.toNat - c.low.toNat := BitVec.toNat_sub_of_le h
  have h2 : ((c.high - c.low) >>> 12).toNat = (c.high.toNat - c.low.toNat) / 4096 := by
    rw [BitVec.toNat_ushiftRight, h1, Nat.shiftRight_eq_div_pow]
  have h3 : (BitVec.ofNat 32 (c.prob r)).toNat = c.prob r := by
    rw [BitVec.toNat_ofNat, Nat.mod_eq_of_lt (by omega)]
  rw [BitVec.toNat_add, BitVec.toNat_mul, h2, h3, Nat.mod_eq_of_lt (a := _ * _) (by omega),
    Nat.mod_eq_of_lt (by omega)]

theorem Coder.low_le_mid (c : Coder) (r : Nat) (h : c.low.toNat ≤ c.high.toNat) :
    c.low.toNat ≤ (c.mid r).toNat := by rw [c.mid_toNat r h]; omega

theorem Coder.mid_le_high (c : Coder) (r : Nat) (h : c.low.toNat ≤ c.high.toNat) :
    (c.mid r).toNat ≤ c.high.toNat := by
  have := split_le (d := c.high.toNat - c.low.toNat) (c.prob_le r)
  rw [c.mid_toNat r h]; omega

theorem Coder.mid_lt_high (c : Coder) (r : Nat) (h : c.low.toNat < c.high.toNat) :
    (c.mid r).toNat < c.high.toNat := by
  have := split_lt (d := c.high.toNat - c.low.toNat) (c.prob_le r) (by omega)
  rw [c.mid_toNat r (by omega)]; omega

theorem Coder.succ_mid_toNat (c : Coder) (r : Nat) (h : c.low.toNat < c.high.toNat) :
    (c.mid r + 1).toNat = (c.mid r).toNat + 1 := by
  have := c.mid_lt_high r h
  have := c.high.isLt
  rw [BitVec.toNat_add]
  exact Nat.mod_eq_of_lt (by simp; omega)

/-- A decision keeps a part of the interval that is not empty and is narrower (R285, R289). -/
theorem Coder.narrow_spec (c : Coder) (r : Nat) (y : Bool) (h : c.low.toNat < c.high.toNat) :
    c.low.toNat ≤ (c.narrow r y).low.toNat ∧ (c.narrow r y).low.toNat ≤ (c.narrow r y).high.toNat ∧
      (c.narrow r y).high.toNat ≤ c.high.toNat ∧
      (c.narrow r y).high.toNat - (c.narrow r y).low.toNat < c.high.toNat - c.low.toNat := by
  have h1 := c.low_le_mid r (by omega)
  have h2 := c.mid_lt_high r h
  have h3 := c.succ_mid_toNat r h
  cases y
  · simp only [Coder.narrow, Bool.false_eq_true, if_false]; omega
  · simp only [Coder.narrow, if_true]; omega

@[simp] theorem Coder.update_low (c : Coder) (r : Nat) (y : Bool) : (c.update r y).low = c.low := rfl
@[simp] theorem Coder.update_high (c : Coder) (r : Nat) (y : Bool) : (c.update r y).high = c.high := rfl
@[simp] theorem Coder.update_xval (c : Coder) (r : Nat) (y : Bool) : (c.update r y).xval = c.xval := rfl
@[simp] theorem Coder.update_cpos (c : Coder) (r : Nat) (y : Bool) : (c.update r y).cpos = c.cpos := rfl
@[simp] theorem Coder.narrow_xval (c : Coder) (r : Nat) (y : Bool) : (c.narrow r y).xval = c.xval := by
  cases y <;> rfl
@[simp] theorem Coder.narrow_cpos (c : Coder) (r : Nat) (y : Bool) : (c.narrow r y).cpos = c.cpos := by
  cases y <;> rfl
@[simp] theorem Coder.narrow_ctx (c : Coder) (r : Nat) (y : Bool) : (c.narrow r y).ctx = c.ctx := by
  cases y <;> rfl
@[simp] theorem Coder.narrow_pos (c : Coder) (r : Nat) (y : Bool) : (c.narrow r y).pos = c.pos := by
  cases y <;> rfl
@[simp] theorem Coder.narrow_cnt (c : Coder) (r : Nat) (y : Bool) : (c.narrow r y).cnt = c.cnt := by
  cases y <;> rfl

/-! ## Renormalisation (R286, R287) -/

/-- The top bytes agree when the quotients by 2^24 do. -/
theorem Coder.topAgree_iff (c : Coder) :
    c.topAgree = true ↔ c.low.toNat / 2 ^ 24 = c.high.toNat / 2 ^ 24 := by
  have hl := c.low.isLt
  have hh := c.high.isLt
  unfold Coder.topAgree
  rw [beq_iff_eq, ← BitVec.toNat_inj]
  simp only [BitVec.extractLsb'_toNat, Nat.shiftRight_eq_div_pow]
  omega

/-- The rule's test of the loop: `((LOW ^ HIGH) & 0xFF000000) = 0` (R286). -/
theorem Coder.goesOn_eq (c : Coder) : Reference.goesOn c = c.topAgree := by
  unfold Reference.goesOn Coder.topAgree
  rw [Bool.eq_iff_iff, beq_iff_eq, beq_iff_eq]
  constructor
  · intro h
    apply BitVec.eq_of_getLsbD_eq
    intro i hi
    have := congrArg (fun v => BitVec.getLsbD v (24 + i)) h
    have hm : (0xFF000000#32).getLsbD (24 + i) = true := by interval_cases i <;> decide
    simp only [BitVec.getLsbD_and, BitVec.getLsbD_xor, hm, Bool.and_true] at this
    simp only [BitVec.getLsbD_extractLsb', hi, decide_true, Bool.true_and]
    simpa using this
  · intro h
    apply BitVec.eq_of_getLsbD_eq
    intro i hi
    by_cases h24 : 24 ≤ i
    · have := congrArg (fun v => BitVec.getLsbD v (i - 24)) h
      have hi' : i - 24 < 8 := by omega
      simp only [BitVec.getLsbD_extractLsb', hi', decide_true, Bool.true_and,
        Nat.add_sub_cancel' h24] at this
      simp [this]
    · have hm : (0xFF000000#32).getLsbD i = false := by
        have : i < 24 := by omega
        interval_cases i <;> decide
      simp [hm]

/-- A shift in numbers: the top byte dropped, 0 and 0xFF filled in. -/
theorem Coder.shift_toNat (c : Coder) :
    c.shift.low.toNat = c.low.toNat % 2 ^ 24 * 256 ∧
      c.shift.high.toNat = c.high.toNat % 2 ^ 24 * 256 + 255 := by
  have hl := c.low.isLt
  have hh := c.high.isLt
  have e : ∀ v : BitVec 32, (v <<< 8).toNat = v.toNat % 2 ^ 24 * 256 := by
    intro v
    have := v.isLt
    rw [BitVec.toNat_shiftLeft, Nat.shiftLeft_eq]
    omega
  refine ⟨e _, ?_⟩
  unfold Coder.shift
  simp only
  rw [BitVec.toNat_or, e, show (255#32).toNat = 255 by rfl]
  have := Nat.shiftLeft_add_eq_or_of_lt (i := 8) (b := 255) (by decide) (c.high.toNat % 2 ^ 24)
  rw [Nat.shiftLeft_eq] at this
  exact this.symm

/-- `XVAL` takes the next byte of `CODE`; beyond its end 0 (R287). -/
theorem Coder.pull_toNat (c : Coder) (code : Buffer) :
    (c.pull code).xval.toNat = c.xval.toNat % 2 ^ 24 * 256 + (code.read c.cpos.toNat).toNat := by
  have hx := c.xval.isLt
  have hb := (code.read c.cpos.toNat).isLt
  have e : (c.xval <<< 8).toNat = c.xval.toNat % 2 ^ 24 * 256 := by
    rw [BitVec.toNat_shiftLeft, Nat.shiftLeft_eq]; omega
  unfold Coder.pull
  simp only
  rw [BitVec.toNat_or, e, BitVec.toNat_setWidth]
  generalize (code.read c.cpos.toNat).toNat = b at hb
  rw [Nat.mod_eq_of_lt (a := b) (by omega)]
  have := Nat.shiftLeft_add_eq_or_of_lt (i := 8) (b := b) hb (c.xval.toNat % 2 ^ 24)
  rw [Nat.shiftLeft_eq] at this
  exact this.symm

/-- A shift where the top bytes agree keeps the interval in order. -/
theorem Coder.shift_le (c : Coder) (h : c.low.toNat ≤ c.high.toNat) (ha : c.topAgree = true) :
    c.shift.low.toNat ≤ c.shift.high.toNat := by
  rw [c.topAgree_iff] at ha
  obtain ⟨h1, h2⟩ := c.shift_toNat
  omega

/-- After `k` shifts the low `k` bytes of the bounds are all 0 and all 1. -/
def Coder.shifted (k : Nat) (c : Coder) : Prop :=
  c.low.toNat % 256 ^ k = 0 ∧ c.high.toNat % 256 ^ k = 256 ^ k - 1

theorem Coder.shifted_zero (c : Coder) : c.shifted 0 := ⟨by simp [Nat.mod_one], by simp [Nat.mod_one]⟩

theorem Coder.shifted_succ {c : Coder} {k : Nat} (hk : k < 4) (h : c.shifted k) : c.shift.shifted (k + 1) := by
  obtain ⟨h1, h2⟩ := c.shift_toNat
  obtain ⟨h3, h4⟩ := h
  unfold Coder.shifted
  rw [h1, h2]
  interval_cases k <;> simp only [Nat.reducePow, Nat.reduceAdd] at * <;> omega

/-- After four shifts the interval is the whole range, and its top bytes differ (R286). -/
theorem Coder.shifted_four {c : Coder} (h : c.shifted 4) : c.topAgree = false := by
  obtain ⟨h1, h2⟩ := h
  have hl := c.low.isLt
  have hh := c.high.isLt
  cases ha : c.topAgree
  · rfl
  · rw [c.topAgree_iff] at ha
    simp only [Nat.reducePow] at *
    omega

/-- What a shift does not touch. -/
theorem Coder.pull_low (c : Coder) (code : Buffer) : (c.pull code).low = c.low := rfl
theorem Coder.pull_high (c : Coder) (code : Buffer) : (c.pull code).high = c.high := rfl
theorem Coder.pull_cpos (c : Coder) (code : Buffer) : (c.pull code).cpos = c.cpos + 1 := rfl

/-- The decoder's renormalisation from an interval in order: it ends with different top bytes, in order
(R287). -/
theorem Coder.renormDec_spec (code : Buffer) (n k : Nat) (c : Coder) (hn : n + k = 4) (hk : c.shifted k)
    (h : c.low.toNat ≤ c.high.toNat) :
    (Coder.renormDec code n c).low.toNat ≤ (Coder.renormDec code n c).high.toNat ∧
      (Coder.renormDec code n c).topAgree = false := by
  induction n generalizing k c with
  | zero =>
    have : k = 4 := by omega
    subst this
    exact ⟨h, Coder.shifted_four hk⟩
  | succ n ih =>
    unfold Coder.renormDec
    by_cases ha : c.topAgree = true
    · rw [if_pos ha]
      refine ih (k + 1) (c.shift.pull code) (by omega) ?_ ?_
      · exact Coder.shifted_succ (by omega) hk
      · exact c.shift_le h ha
    · rw [if_neg ha]
      exact ⟨h, by simpa using ha⟩

/-- While it renormalises, `XVAL` stays in the interval (R287). -/
theorem Coder.renormDec_xval (code : Buffer) (n : Nat) (c : Coder)
    (hx : c.low.toNat ≤ c.xval.toNat ∧ c.xval.toNat ≤ c.high.toNat) :
    (Coder.renormDec code n c).low.toNat ≤ (Coder.renormDec code n c).xval.toNat ∧
      (Coder.renormDec code n c).xval.toNat ≤ (Coder.renormDec code n c).high.toNat := by
  induction n generalizing c with
  | zero => exact hx
  | succ n ih =>
    unfold Coder.renormDec
    by_cases ha : c.topAgree = true
    · rw [if_pos ha]
      apply ih
      rw [c.topAgree_iff] at ha
      obtain ⟨h1, h2⟩ := c.shift_toNat
      have h3 := Coder.pull_toNat c.shift code
      have hb := (code.read c.shift.cpos.toNat).isLt
      rw [Coder.pull_low, Coder.pull_high, h1, h2, h3, show c.shift.xval = c.xval from rfl]
      omega
    · rw [if_neg ha]; exact hx

/-- The part the decoder chooses holds `XVAL` (R287). -/
theorem Coder.choice_xval (c : Coder) (r : Nat) (h : c.low.toNat < c.high.toNat)
    (hx : c.low.toNat ≤ c.xval.toNat ∧ c.xval.toNat ≤ c.high.toNat) :
    (c.narrow r (c.choice r)).low.toNat ≤ c.xval.toNat ∧
      c.xval.toNat ≤ (c.narrow r (c.choice r)).high.toNat := by
  have h3 := c.succ_mid_toNat r h
  unfold Coder.choice
  by_cases hc : c.xval.toNat ≤ (c.mid r).toNat
  · rw [decide_eq_true hc]; simp only [Coder.narrow, if_true]; omega
  · rw [decide_eq_false hc]; simp only [Coder.narrow, Bool.false_eq_true, if_false]; omega

/-- Bounds with different top bytes, in order, enclose two values at least. -/
theorem Coder.lt_of_topAgree {c : Coder} (h : c.low.toNat ≤ c.high.toNat) (ha : c.topAgree = false) :
    c.low.toNat < c.high.toNat := by
  rcases Nat.lt_or_eq_of_le h with h | h
  · exact h
  · have : c.topAgree = true := by rw [c.topAgree_iff, h]
    rw [ha] at this; cases this

/-! ## The counts and the context (R284) -/

theorem cntAddr_false_ne_true (r x : Nat) : cntAddr r x false ≠ cntAddr r x true := by
  simp [cntAddr]

theorem cntAddr_not_ne (r x : Nat) (y : Bool) : cntAddr r x (!y) ≠ cntAddr r x y := by
  cases y <;> simp [cntAddr]

/-- The counts after a decision, read at any address: below the ceiling the coded one is one up (R284). -/
theorem Coder.read_countUp (c : Coder) (r : Nat) (y : Bool) (a : Nat)
    (h : (Memory.read c.cnt (cntAddr r c.ctx.toNat y)).toNat ≤ 65534) :
    Memory.read (c.countUp r y) a =
      if (Memory.read c.cnt (cntAddr r c.ctx.toNat y)).toNat < 65534 then
        if a = cntAddr r c.ctx.toNat y then Memory.read c.cnt (cntAddr r c.ctx.toNat y) + 1
        else Memory.read c.cnt a
      else if a = cntAddr r c.ctx.toNat y then 32767
      else if a = cntAddr r c.ctx.toNat (!y) then Memory.read c.cnt (cntAddr r c.ctx.toNat (!y)) >>> 1
      else Memory.read c.cnt a := by
  have hs : (Memory.read c.cnt (cntAddr r c.ctx.toNat y) + 1).toNat =
      (Memory.read c.cnt (cntAddr r c.ctx.toNat y)).toNat + 1 := by
    rw [BitVec.toNat_add]; exact Nat.mod_eq_of_lt (by simp; omega)
  have hne := cntAddr_false_ne_true r c.ctx.toNat
  unfold Coder.countUp
  simp only [Memory.read_write, if_true, hs]
  by_cases hlt : (Memory.read c.cnt (cntAddr r c.ctx.toNat y)).toNat < 65534
  · rw [if_pos hlt, if_neg (by omega)]
    simp only [Memory.read_write]
  · rw [if_neg hlt, if_pos (by omega)]
    have he : (Memory.read c.cnt (cntAddr r c.ctx.toNat y) + 1) >>> 1 = 32767 := by
      apply BitVec.eq_of_toNat_eq
      rw [BitVec.toNat_ushiftRight, hs, Nat.shiftRight_eq_div_pow]
      simp; omega
    simp only [Memory.read_write]
    cases y
    · by_cases h1 : a = cntAddr r c.ctx.toNat true
      · simp [h1, hne.symm]
      · by_cases h0 : a = cntAddr r c.ctx.toNat false
        · subst h0; simpa [hne] using he
        · simp [h0, h1]
    · by_cases h1 : a = cntAddr r c.ctx.toNat true
      · subst h1; simpa using he
      · by_cases h0 : a = cntAddr r c.ctx.toNat false
        · simp [h0, hne]
        · simp [h0, h1]

/-- Between decisions no count exceeds the ceiling (R284). -/
theorem Coder.countUp_le (c : Coder) (r : Nat) (y : Bool) (h : ∀ a, (Memory.read c.cnt a).toNat ≤ 65534) (a : Nat) :
    (Memory.read (c.countUp r y) a).toNat ≤ 65534 := by
  rw [c.read_countUp r y a (h _)]
  have h1 := h (cntAddr r c.ctx.toNat y)
  have h0 := h (cntAddr r c.ctx.toNat (!y))
  have ha := h a
  split
  · split
    · rw [BitVec.toNat_add]; exact Nat.le_trans (Nat.mod_le _ _) (by simp; omega)
    · exact ha
  · split
    · decide
    · split
      · rw [BitVec.toNat_ushiftRight, Nat.shiftRight_eq_div_pow]; omega
      · exact ha

/-- The context stays a leading 1 and up to eight bits (R284). -/
theorem Coder.update_ctx (c : Coder) (r : Nat) (y : Bool) (h : 1 ≤ c.ctx.toNat ∧ c.ctx.toNat ≤ 511) :
    1 ≤ (c.update r y).ctx.toNat ∧ (c.update r y).ctx.toNat ≤ 511 := by
  have hy := Bool.toNat_le y
  unfold Coder.update
  simp only
  split
  · decide
  · rw [BitVec.toNat_ofNat, Nat.mod_eq_of_lt (by omega)]; omega

/-- The region index is below the region count (R283). -/
theorem Config.regionOf_lt (c : Config) (n k : Nat) (h : 1 ≤ n) : c.regionOf n k < n := by
  unfold Config.regionOf
  split
  · omega
  · unfold defaultRegionOf
    have h1 : k / 2 % 576 < 576 := Nat.mod_lt _ (by decide)
    rw [Nat.div_lt_iff_lt_mul (by decide), Nat.mul_comm n 576]
    exact Nat.mul_lt_mul_of_pos_right h1 (by omega)

end Sys2Proof.Machine

namespace Sys2Proof.Reference

open Sys2Proof.Machine

/-- The reference's split point is the machine's (R285). -/
theorem mid_eq (c : Coder) (r : Nat) (h : c.low.toNat ≤ c.high.toNat) : mid c r = (c.mid r).toNat := by
  rw [c.mid_toNat r h]; rfl

theorem split_eq (c : Coder) (r : Nat) (y : Bool) (h : c.low.toNat ≤ c.high.toNat) :
    split c r y = c.narrow r y := by
  unfold split Coder.narrow
  rw [mid_eq c r h]
  have e : BitVec.ofNat 32 ((c.mid r).toNat + 1) = c.mid r + 1 := by
    apply BitVec.eq_of_toNat_eq; simp
  rw [e, BitVec.ofNat_toNat, BitVec.setWidth_eq]

theorem update_eq (c : Coder) (r : Nat) (y : Bool) : update c r y = c.update r y := by
  unfold update Coder.update Coder.countUp
  have hne := cntAddr_false_ne_true r c.ctx.toNat
  cases y
  · simp only [Bool.false_eq_true, if_false, Bool.toNat_false]; split <;> rfl
  · simp only [if_true, Bool.toNat_true]; split <;> rfl

theorem nextByte_eq (code : Buffer) (c : Coder) : nextByte code c = c.pull code := by
  unfold nextByte Coder.pull
  by_cases h : c.cpos.toNat < code.len
  · simp only [if_pos h]
  · simp only [if_neg h, Buffer.read_of_ge (Nat.le_of_not_lt h)]

end Sys2Proof.Reference
end

