-- ==== Sys2Proof/Laws/Parser.lean ====
section
/-! SUPPORT. The frame parser's loops in closed form: the sequential reads of `SIDE`, the copies and the
walk of `RESV` (41_frame_parser.md R190, R199). -/

namespace Sys2Proof.Machine

/-! ## Copies (R199) -/

/-- The first missing byte of a copy is its first byte's, or else the rest's. -/
theorem copyMissing_succ (b : Buffer) (a n : Nat) :
    copyMissing b a (a + (n + 1)) = (copyMissing b a (a + 1)).or (copyMissing b (a + 1) (a + 1 + n)) := by
  unfold copyMissing
  split_ifs <;> simp <;> omega

theorem slice_succ (b : Buffer) (a n : Nat) : b.slice a (n + 1) = b.read a :: b.slice (a + 1) n := by
  unfold Buffer.slice
  rw [List.range_succ_eq_map]
  simp [Function.comp_def, Nat.add_comm, Nat.add_left_comm]

/-- An empty copy misses nothing, whatever its bounds. -/
theorem copyMissing_sub (b : Buffer) (lo hi : Nat) :
    copyMissing b lo (lo + (hi - lo)) = copyMissing b lo hi := by
  by_cases h : lo ≤ hi
  · rw [Nat.add_sub_cancel' h]
  · unfold copyMissing; rw [if_neg (by omega), if_neg (by omega)]

theorem noteCopies_cons (b : Buffer) (p : Nat × Nat) (l : List (Nat × Nat)) (s : State) :
    noteCopies b (p :: l) s = noteCopies b l (noteMissing (copyMissing b p.1 p.2) s) := rfl

theorem noteCopies_ibuf (b : Buffer) (l : List (Nat × Nat)) (s : State) :
    (noteCopies b l s).ibuf = s.ibuf := by
  induction l generalizing s with
  | nil => rfl
  | cons p l ih => rw [noteCopies_cons, ih]; simp

/-! ## The walk backward (R199, R200) -/

/-- The walk succeeds exactly when some number of most recent frames holds the bytes and fits below
`start`. -/
theorem walk_spec (mdb p : Nat) (l : List (BitVec 12)) (start acc : Nat) (parts : List (Nat × Nat)) :
    (∃ r, reservoirWalk mdb p l start acc parts = some r) ↔
      ∃ k ≤ l.length, mdb ≤ acc + ((l.take k).map fun z => z.toNat - p).sum ∧
        ((l.take k).map fun z => z.toNat).sum ≤ start := by
  induction l generalizing start acc parts with
  | nil => unfold reservoirWalk; by_cases h : mdb ≤ acc <;> simp [h]
  | cons z l ih =>
    unfold reservoirWalk
    by_cases h : mdb ≤ acc
    · rw [if_pos h]; exact ⟨fun _ => ⟨0, by simp, by simpa using h, by simp⟩, fun _ => ⟨_, rfl⟩⟩
    · rw [if_neg h]
      by_cases h2 : start < z.toNat
      · rw [if_pos h2]
        constructor
        · rintro ⟨r, hr⟩; cases hr
        · rintro ⟨k, hk, h3, h4⟩
          cases k with
          | zero => simp at h3; omega
          | succ k => simp at h4; omega
      · rw [if_neg h2, ih]
        have more : ∀ k, mdb ≤ acc + (((z :: l).take (k + 1)).map fun z => z.toNat - p).sum ∧
            (((z :: l).take (k + 1)).map fun z => z.toNat).sum ≤ start ↔
            mdb ≤ acc + (z.toNat - p) + ((l.take k).map fun z => z.toNat - p).sum ∧
              ((l.take k).map fun z => z.toNat).sum ≤ start - z.toNat := by
          intro k
          simp only [List.take_succ_cons, List.map_cons, List.sum_cons]
          omega
        constructor
        · rintro ⟨k, hk, h34⟩
          exact ⟨k + 1, by simpa using hk, (more k).mpr h34⟩
        · rintro ⟨k, hk, h34⟩
          cases k with
          | zero => simp at h34; omega
          | succ k => exact ⟨k, by simpa using hk, (more k).mp h34⟩

/-- What the walk gathered is as long as it says, and enough. -/
theorem walk_len (mdb p : Nat) (b : Buffer) (l : List (BitVec 12)) (start acc : Nat)
    (parts : List (Nat × Nat)) {acc' : Nat} {parts' : List (Nat × Nat)}
    (h : (parts.flatMap fun r => copyBytes b r.1 r.2).length = acc)
    (hw : reservoirWalk mdb p l start acc parts = some (acc', parts')) :
    (parts'.flatMap fun r => copyBytes b r.1 r.2).length = acc' ∧ mdb ≤ acc' := by
  induction l generalizing start acc parts with
  | nil =>
    unfold reservoirWalk at hw
    split at hw
    · cases hw; exact ⟨h, by assumption⟩
    · cases hw
  | cons z l ih =>
    unfold reservoirWalk at hw
    split at hw
    · cases hw; exact ⟨h, by assumption⟩
    · split at hw
      · cases hw
      · refine ih _ _ _ ?_ hw
        rw [List.flatMap_cons, List.length_append, h]
        simp only [copyBytes, Buffer.slice_length]
        omega

end Sys2Proof.Machine

namespace Sys2Proof.Reference

open Sys2Proof.Machine

/-! ## `SIDE` (R190) -/

/-- `n` one-bit reads, the first read as bit 0. -/
theorem reads_flags (n : Nat) : Reads (flags n) n fun b pos =>
    ((List.range n).map fun k => (b.bit (pos + k)).toNat * 2 ^ k).sum := by
  induction n with
  | zero => exact reads_pure 0
  | succ n ih =>
    have := reads_bind ih fun low => reads_bind (reads_r 1) fun bit => reads_pure (low + bit * 2 ^ n)
    intro pos s
    have h := this pos s
    unfold flags
    rw [h]
    simp [List.range_succ, Buffer.bits_one]

/-- One block takes 59 bits (30_encoding.md R124). -/
theorem reads_sideBlock (nzc : BitVec 10) :
    Reads (Reference.sideBlock nzc) 59 fun b pos => Machine.sideBlock b pos nzc := by
  intro pos s
  unfold Reference.sideBlock
  simp only [bind, StateT.bind, r_eq, pure, noteMissing_ibuf, noteMissing_noteMissing,
    Nat.add_assoc, Nat.reduceAdd, ← Buffer.missing_add]
  have hbit : (s.ibuf.bit (pos + 33) = true) ↔ s.ibuf.bits (pos + 33) 1 = 1 := by
    rw [Buffer.bits_one]
    cases s.ibuf.bit (pos + 33) <;> simp
  by_cases hw : s.ibuf.bits (pos + 33) 1 = 1
  · simp only [hw, if_true, StateT.bind, r_eq, pure, StateT.pure, noteMissing_ibuf, bind,
      noteMissing_noteMissing, Nat.add_assoc, Nat.reduceAdd, ← Buffer.missing_add]
    unfold Machine.sideBlock
    simp only [hbit.mpr hw, if_true, siField, Nat.add_zero, hw]
    rfl
  · have hb : s.ibuf.bit (pos + 33) = false := by
      cases h : s.ibuf.bit (pos + 33)
      · rfl
      · exact absurd (hbit.mp h) hw
    simp only [hw, if_false, StateT.bind, r_eq, pure, StateT.pure, noteMissing_ibuf, bind,
      noteMissing_noteMissing, Nat.add_assoc, Nat.reduceAdd, ← Buffer.missing_add]
    unfold Machine.sideBlock
    simp only [hb, siField, Nat.add_zero, Bool.false_eq_true, if_false]
    rfl

theorem reads_sideBlockIf (p : Bool) (nzc : BitVec 10) :
    Reads (sideBlockIf p nzc) (if p then 59 else 0) fun b pos =>
      if p then Machine.sideBlock b pos nzc else { SideBlock.reset with nzc := nzc } := by
  cases p
  · exact reads_pure _
  · exact reads_sideBlock _

/-! ## `RESV` (R199) -/

/-- `Copy(a, b)` is the slice, with the first missing byte noted. -/
theorem copy_eq (n a : Nat) (s : State) :
    Reference.copy n a s = (s.ibuf.slice a n, noteMissing (copyMissing s.ibuf a (a + n)) s) := by
  induction n generalizing a s with
  | zero => simp [Reference.copy, Buffer.slice, copyMissing]
  | succ n ih =>
    unfold Reference.copy
    simp only
    rw [copyMissing_succ, noteMissing_or, slice_succ]
    split
    · rename_i h
      rw [ih]
      have : copyMissing s.ibuf a (a + 1) = none := by unfold copyMissing; rw [if_neg (by omega)]
      rw [this]; rfl
    · rename_i h
      rw [ih]
      have : copyMissing s.ibuf a (a + 1) = some (8 * a) := by
        unfold copyMissing; rw [if_pos (by omega)]; congr 2; omega
      rw [this]; rfl

/-- Several copies are the slices, each missing byte noted in order. -/
theorem copies_eq (parts : List (Nat × Nat)) (s : State) :
    copies parts s = (parts.flatMap fun p => copyBytes s.ibuf p.1 p.2, noteCopies s.ibuf parts s) := by
  induction parts generalizing s with
  | nil => rfl
  | cons p parts ih =>
    unfold copies
    simp only [copy_eq, ih, copyMissing_sub, noteMissing_ibuf, noteCopies_cons]
    rfl

/-- The `while` loop of R199 is the walk over the history from entry `k` on. -/
theorem resvLoop_eq (mdb p : Nat) (ring : List (BitVec 12)) (k acc start : Nat) (parts : List (Nat × Nat))
    (hk : k ≤ ring.length) (fuel : Nat) (hf : ring.length - k < fuel) :
    resvLoop mdb p ring fuel k acc start parts = reservoirWalk mdb p (ring.drop k) start acc parts := by
  induction fuel generalizing k acc start parts with
  | zero => omega
  | succ fuel ih =>
    unfold resvLoop
    by_cases hkl : k = ring.length
    · have : ring.drop k = [] := by simp [hkl]
      rw [this]
      unfold reservoirWalk
      by_cases h : acc < mdb
      · rw [if_pos h, if_pos (.inl hkl), if_neg (by omega)]
      · rw [if_neg h, if_pos (by omega)]
    · have hlt : k < ring.length := by omega
      have : ring.drop k = ring.getD k 0 :: ring.drop (k + 1) := by
        rw [List.drop_eq_getElem_cons hlt]; simp [hlt]
      rw [this]
      unfold reservoirWalk
      by_cases h : acc < mdb
      · rw [if_pos h, if_neg (show ¬ mdb ≤ acc by omega)]
        by_cases h2 : start < (ring.getD k 0).toNat
        · rw [if_pos (.inr h2), if_pos h2]
        · rw [if_neg (by simp only [not_or]; exact ⟨hkl, h2⟩), if_neg h2]
          simp only
          rw [ih (k + 1) _ _ _ (by omega) (by omega)]
          simp
      · rw [if_neg h, if_pos (by omega)]

end Sys2Proof.Reference
end

