-- ==== Sys2Proof/Laws/Container.lean ====
section
/-! SUPPORT. The reference's appends, coder commands and container lines as the machine's bodies: what the
statements about commands that append, stop or loop are proved from. -/

namespace Sys2Proof.Reference

open Sys2Proof.Machine

/-! ## Appends and loops -/

theorem append_eq (b : BufId) (v : Byte) (s : State) : append b v s = Machine.append b v s := by
  unfold append Machine.append State.full
  cases s.cap b with
  | none => rfl
  | some c =>
    by_cases h : (s.buf b).len < c
    · simp [h]
    · simp [h, Nat.le_of_not_lt h]

theorem appends_eq (b : BufId) (vs : List Byte) (s : State) : appends b vs s = appendAll b vs s := by
  induction vs generalizing s with
  | nil => rfl
  | cons v vs ih =>
    have e : appends b vs = appendAll b vs := funext ih
    unfold appends appendAll
    rw [append_eq, e]

theorem loop_again {turn : State → Turn} {s u : State} (h : turn s = .again u) (n : Nat) :
    loop turn (n + 1) s = loop turn n u := by rw [loop, h]

theorem loop_leave {turn : State → Turn} {s u : State} (h : turn s = .leave u) (n : Nat) :
    loop turn (n + 1) s = .leave u := by rw [loop, h]

theorem loop_stop {turn : State → Turn} {s u : State} (h : turn s = .stop u) (n : Nat) :
    loop turn (n + 1) s = .stop u := by rw [loop, h]

/-- A loop gives what it gives from the state after one more turn. -/
theorem loopGives_again {turn : State → Turn} {finish : State → State} {s u t : State}
    (h : turn s = .again u) (hu : loopGives turn finish u t) : loopGives turn finish s t := by
  obtain ⟨n, hn⟩ := hu
  exact ⟨n + 1, by rw [loop_again h]; exact hn⟩

theorem loopGives_leave {turn : State → Turn} {finish : State → State} {s u : State}
    (h : turn s = .leave u) : loopGives turn finish s (finish u) :=
  ⟨1, .inl ⟨u, loop_leave h 0, rfl⟩⟩

theorem loopGives_stop {turn : State → Turn} {finish : State → State} {s u : State}
    (h : turn s = .stop u) : loopGives turn finish s u := ⟨1, .inr (loop_stop h 0)⟩

/-! ## Bodies -/

theorem sinit_eq (s : State) : sinit s = sinitBody s := rfl

theorem adv_eq (s : State) : adv s = advBody s := rfl

theorem zeroed_eq (s : State) : zeroed s = zeroGranules s := rfl

theorem runEnd_eq (s : State) : runEnd s = Machine.runEnd s := rfl

theorem acflush_eq (s : State) : acflush s = flushBody s := by
  unfold acflush flushBody
  simp only
  rw [appends_eq]
  rfl

/-- A renormalisation of the reference is the machine's, turn for turn (R286). -/
theorem renormEnc_eq (n : Nat) (s : State) : renormEnc n s = Machine.renormEnc n s := by
  induction n generalizing s with
  | zero => rfl
  | succ n ih =>
    have e : renormEnc n = Machine.renormEnc n := funext ih
    unfold renormEnc Machine.renormEnc
    rw [append_eq, Coder.goesOn_eq, e]
    rfl

/-- The interval and the model after a decision (R284, R285). -/
theorem decided_eq (y : Bool) (s : State) (h : s.ac.low.toNat ≤ s.ac.high.toNat) :
    decided y s = { s with ac := s.ac.advance s.region y } := by
  unfold decided
  rw [update_eq, split_eq _ _ _ h]
  rfl

theorem byteDecisions_eq (v : Byte) : byteDecisions v = false :: byteBits v := by
  simp [byteDecisions, byteBits, List.range_succ, BitVec.getMsbD_eq_getLsbD]

/-- The header bytes copied by `EMIT`, each missing byte noted before it is appended (R323). -/
theorem copyOut_eq (n a : Nat) (s : State) : copyOut n a s = copyHeader n a s := by
  induction n generalizing a s with
  | zero => rfl
  | succ n ih =>
    have e : copyOut n (a + 1) = copyHeader n (a + 1) := funext fun s => ih (a + 1) s
    unfold copyOut copyHeader
    simp only
    by_cases h : a < s.ibuf.len
    · have hm : copyMissing s.ibuf a (a + 1) = none := by unfold copyMissing; rw [if_neg (by omega)]
      rw [if_pos h, append_eq, hm, e]
      rfl
    · have hm : copyMissing s.ibuf a (a + 1) = some (8 * a) := by
        unfold copyMissing; rw [if_pos (by omega)]; congr 2; omega
      rw [if_neg h, append_eq, hm, e]
      rfl

end Sys2Proof.Reference
end

