-- ==== Sys2Proof/Laws/PerInstr.lean ====
section
/-! SUPPORT. Families of statements about every command as syntax: one lemma for each constructor. -/

set_option Elab.async false

namespace Sys2Proof.Laws.MatchesRow

open Sys2Proof

/-- The row of the opcode map for a command (30_encoding.md R112, R111). -/
def row : Instr → Reference.OpcodeRow
  | .nop => ⟨0x00000000, 0xFFFFFFFF⟩
  | .srst => ⟨0x01000000, 0xFFFFFFFF⟩
  | .clrerr => ⟨0x02000000, 0xFFFFFFFF⟩
  | .sinit => ⟨0x03000000, 0xFFFFFFFF⟩
  | .rdbits _ _ _ => ⟨0x10000000, 0xFF0FFFC0⟩
  | .hdr => ⟨0x20000000, 0xFFFFFFFF⟩
  | .side => ⟨0x21000000, 0xFFFFFFFF⟩
  | .resv => ⟨0x22000000, 0xFFFFFFFF⟩
  | .scf _ _ => ⟨0x23000000, 0xFFFFFFFC⟩
  | .adv => ⟨0x24000000, 0xFFFFFFFF⟩
  | .hufpair _ _ _ => ⟨0x30000000, 0xFFFFFF80⟩
  | .hufquad _ _ _ => ⟨0x31000000, 0xFFFFFFF8⟩
  | .spec _ _ => ⟨0x32000000, 0xFFFFFFFC⟩
  | .acinit _ => ⟨0x40000000, 0xFFFFFFFE⟩
  | .acencb _ => ⟨0x41000000, 0xFFFFFFFE⟩
  | .acdecb => ⟨0x42000000, 0xFFFFFFFF⟩
  | .acflush => ⟨0x43000000, 0xFFFFFFFF⟩
  | .acenc => ⟨0x44000000, 0xFFFFFFFF⟩
  | .acdec => ⟨0x45000000, 0xFFFFFFFF⟩
  | .ser => ⟨0x50000000, 0xFFFFFFFF⟩
  | .emit => ⟨0x51000000, 0xFFFFFFFF⟩
  | .frame => ⟨0x52000000, 0xFFFFFFFF⟩
  | .run => ⟨0x53000000, 0xFFFFFFFF⟩

/-- Whether a word matches the given row and no other of the map. -/
def onlyRow (r : Reference.OpcodeRow) (w : Word) : Bool :=
  r.fits w && Reference.opcodeRows.all fun r' => !r'.fits w || r' == r

/-- The word of a well-formed command matches its own row of the opcode map and no other (R111: "a word
matches a row when `(w & mask) = match`"). -/
def Statement (i : Instr) : Prop := i.wf = true → onlyRow (row i) (encode i) = true

theorem nop : Statement .nop := fun _ => by decide +kernel
theorem srst : Statement .srst := fun _ => by decide +kernel
theorem clrerr : Statement .clrerr := fun _ => by decide +kernel
theorem sinit : Statement .sinit := fun _ => by decide +kernel

theorem rdbits (buf : BufId) (adv : Bool) (len : Nat) : Statement (.rdbits buf adv len) := by
  intro h
  have hl : len < 33 := Nat.lt_succ_of_le (of_decide_eq_true h)
  have all : ∀ n : Fin 33, onlyRow (row (.rdbits buf adv n.val)) (encode (.rdbits buf adv n.val)) = true := by
    cases buf <;> cases adv <;> decide +kernel
  exact all ⟨len, hl⟩

theorem hdr : Statement .hdr := fun _ => by decide +kernel
theorem side : Statement .side := fun _ => by decide +kernel
theorem resv : Statement .resv := fun _ => by decide +kernel
theorem scf (gr ch : Fin 2) : Statement (.scf gr ch) := fun _ => by revert gr ch; decide +kernel
theorem adv : Statement .adv := fun _ => by decide +kernel

theorem hufpair (gr ch : Fin 2) (tbl : Fin 32) : Statement (.hufpair gr ch tbl) := fun _ => by
  revert gr ch tbl; decide +kernel

theorem hufquad (gr ch : Fin 2) (sel : Bool) : Statement (.hufquad gr ch sel) := fun _ => by
  revert gr ch sel; decide +kernel

theorem spec (gr ch : Fin 2) : Statement (.spec gr ch) := fun _ => by revert gr ch; decide +kernel
theorem acinit (dir : Dir) : Statement (.acinit dir) := fun _ => by cases dir <;> decide +kernel
theorem acencb (y : Bool) : Statement (.acencb y) := fun _ => by cases y <;> decide +kernel
theorem acdecb : Statement .acdecb := fun _ => by decide +kernel
theorem acflush : Statement .acflush := fun _ => by decide +kernel
theorem acenc : Statement .acenc := fun _ => by decide +kernel
theorem acdec : Statement .acdec := fun _ => by decide +kernel
theorem ser : Statement .ser := fun _ => by decide +kernel
theorem emit : Statement .emit := fun _ => by decide +kernel
theorem frame : Statement .frame := fun _ => by decide +kernel
theorem run : Statement .run := fun _ => by decide +kernel

end Sys2Proof.Laws.MatchesRow
end

