-- ==== Sys2Proof/Laws/Spectrum.lean ====
section
/-! SUPPORT. The reads of the spectrum decoder in the pseudocode of the rules, as reads of a cursor: a
state whose `CUR` and error registers a cursor has moved on. -/

namespace Sys2Proof.Machine

@[simp] theorem applyCursor_cursor (s : State) : applyCursor s.cursor s = s := rfl

@[simp] theorem applyCursor_buf (c : Cursor) (s : State) (b : BufId) : (applyCursor c s).buf b = s.buf b := by
  unfold applyCursor; rw [noteMissing_buf]; cases b <;> rfl

/-- A cursor's place may be written before or after its missing bit is noted. -/
theorem noteMissing_setCur (m : Option Nat) (x : BitVec 32) (s : State) :
    { noteMissing m s with cur := x } = noteMissing m { s with cur := x } := by cases m <;> rfl

/-- Noting a bit on a state a cursor has moved on adds to what the cursor misses. -/
theorem noteMissing_applyCursor (m : Option Nat) (c : Cursor) (s : State) :
    noteMissing m (applyCursor c s) = applyCursor { c with miss := c.miss.or m } s := by
  unfold applyCursor
  rw [noteMissing_noteMissing]

theorem applyCursor_setCur (c : Cursor) (x : BitVec 32) (s : State) :
    { applyCursor c s with cur := x } = applyCursor { c with cur := x } s := by
  unfold applyCursor
  rw [noteMissing_setCur]

/-- The search by entry number is the first entry equal to the code word (R232). -/
theorem findIdx_eq_findCode (es : List CodeWord) (v l i : Nat) :
    (es.findIdx? fun e => e.code == v && e.len == l).map (· + i) = findCode v l es i := by
  induction es generalizing i with
  | nil => rfl
  | cons e es ih =>
    unfold findCode
    rw [List.findIdx?_cons]
    by_cases h : e.len = l ∧ e.code = v
    · simp [h]
    · have hb : (e.code == v && e.len == l) = false := by
        by_cases h1 : e.code = v <;> by_cases h2 : e.len = l <;> simp_all
      rw [hb, if_neg h, ← ih]
      cases es.findIdx? fun e => e.code == v && e.len == l with
      | none => rfl
      | some k => simp; omega

theorem findIdx_eq_findCode_zero (es : List CodeWord) (v l : Nat) :
    (es.findIdx? fun e => e.code == v && e.len == l) = findCode v l es 0 := by
  rw [← findIdx_eq_findCode]; simp

/-- What the search from a table returns is an entry equal to the code word sought. -/
theorem findCode_some {v l i k : Nat} {es : List CodeWord} (h : findCode v l es i = some k) :
    i ≤ k ∧ es[k - i]? = some ⟨v, l⟩ := by
  induction es generalizing i with
  | nil => cases h
  | cons e es ih =>
    unfold findCode at h
    split at h
    · rename_i he; cases h; obtain ⟨h1, h2⟩ := he; subst h1 h2; simp
    · have := ih h
      obtain ⟨h1, h2⟩ := this
      refine ⟨by omega, ?_⟩
      rw [show k - i = (k - (i + 1)) + 1 by omega, List.getElem?_cons_succ]
      exact h2

/-- A table without the code word sought gives none. -/
theorem findCode_none {v l i : Nat} {es : List CodeWord} (h : findCode v l es i = none) :
    (⟨v, l⟩ : CodeWord) ∉ es := by
  induction es generalizing i with
  | nil => simp
  | cons e es ih =>
    unfold findCode at h
    split at h
    · cases h
    · rename_i he
      rw [List.mem_cons, not_or]
      exact ⟨fun hh => he (by rw [← hh]; exact ⟨rfl, rfl⟩), ih h⟩

end Sys2Proof.Machine

namespace Sys2Proof.Reference

open Sys2Proof.Machine

/-- `Take` on a state a cursor has moved on is the cursor's read. -/
theorem take_applyCursor (n : Nat) (c : Cursor) (s : State) :
    take .mdbuf n (applyCursor c s) = ((c.take s.mdbuf n).1, applyCursor (c.take s.mdbuf n).2 s) := by
  rw [take_eq, applyCursor_buf, applyCursor_cur, noteMissing_applyCursor, applyCursor_setCur]
  rfl

theorem escape_applyCursor (lb x : Nat) (c : Cursor) (s : State) :
    escape lb x (applyCursor c s) =
      ((readEscape s.mdbuf lb x c).1, applyCursor (readEscape s.mdbuf lb x c).2 s) := by
  unfold escape readEscape
  by_cases h : 0 < lb ∧ x = 15
  · rw [if_pos h, if_pos h, take_applyCursor]
  · rw [if_neg h, if_neg h]

theorem sign_applyCursor (x : Nat) (c : Cursor) (s : State) :
    sign x (applyCursor c s) = ((readSign s.mdbuf x c).1, applyCursor (readSign s.mdbuf x c).2 s) := by
  unfold sign readSign
  by_cases h : x = 0
  · subst h; simp
  · rw [if_pos h, if_neg h, take_applyCursor]
    simp only
    split <;> rfl

theorem matchLoop_applyCursor (es : List CodeWord) (fuel l v : Nat) (c : Cursor) (s : State) :
    matchLoop es fuel l v (applyCursor c s) =
      ((matchFrom s.mdbuf es c.cur fuel l v c.miss).1,
        applyCursor (matchFrom s.mdbuf es c.cur fuel l v c.miss).2 s) := by
  induction fuel generalizing l v c with
  | zero => rfl
  | succ fuel ih =>
    unfold matchLoop matchFrom
    simp only [readBits_eq, applyCursor_buf, applyCursor_cur, noteMissing_applyCursor]
    rw [findIdx_eq_findCode_zero]
    have hb : s.buf .mdbuf = s.mdbuf := rfl
    rw [hb]
    cases findCode (2 * v + s.mdbuf.bits (c.cur.toNat + l) 1) (l + 1) es 0 with
    | some i =>
      simp only
      rw [applyCursor_setCur]
    | none =>
      simp only
      rw [ih]

/-- The search of `Match` (R232) on a state a cursor has moved on. -/
theorem matchWord_applyCursor (es : List CodeWord) (c : Cursor) (s : State) :
    matchWord es (applyCursor c s) =
      ((matchCode s.mdbuf es c).1, applyCursor (matchCode s.mdbuf es c).2 s) :=
  matchLoop_applyCursor es 32 0 0 c s

/-- The two samples of a pair and `IDX` on a state a cursor has moved on (R235). -/
theorem storePair_applyCursor (gr ch : Fin 2) (x y : Int) (c : Cursor) (s : State) :
    storePair gr ch x y (applyCursor c s) =
      applyCursor c
        { s with samp := Memory.writeAll s.samp (sampWrites gr ch s.idx.toNat [x, y]), idx := s.idx + 2 } := by
  obtain ⟨cur, miss⟩ := c
  cases miss <;> rfl

/-- The four samples of a quadruple and `IDX` on a state a cursor has moved on (R238). -/
theorem storeQuad_applyCursor (gr ch : Fin 2) (v w x y : Int) (c : Cursor) (s : State) :
    storeQuad gr ch v w x y (applyCursor c s) =
      applyCursor c
        { s with
          samp := Memory.writeAll s.samp (sampWrites gr ch s.idx.toNat [v, w, x, y]), idx := s.idx + 4 } := by
  obtain ⟨cur, miss⟩ := c
  cases miss <;> rfl

end Sys2Proof.Reference

namespace Sys2Proof.Machine

/-- A failed search leaves `CUR` where it was (R232). -/
theorem matchFrom_none {b : Buffer} {es : List CodeWord} {cur : BitVec 32} {fuel l v : Nat}
    {miss : Option Nat} (h : (matchFrom b es cur fuel l v miss).1 = none) :
    (matchFrom b es cur fuel l v miss).2.cur = cur := by
  induction fuel generalizing l v miss with
  | zero => rfl
  | succ fuel ih =>
    unfold matchFrom at h ⊢
    simp only at h ⊢
    split at h
    · cases h
    · exact ih h

theorem matchCode_none {b : Buffer} {es : List CodeWord} {c : Cursor} (h : (matchCode b es c).1 = none) :
    (matchCode b es c).2.cur = c.cur := matchFrom_none h

end Sys2Proof.Machine
end

