-- ==== Sys2Proof/Tests/Slice0.lean ====
section
/-! SUPPORT. Tests. Expected results come from spec/95_test_vectors.md (V), the examples in the rules (R),
or hand calculation from a rule; each test says which. The second half shows, for every statement that has
hypotheses, a state and operands that meet them. -/

set_option Elab.async false

namespace Sys2Proof.Tests

open Sys2Proof Sys2Proof.Machine

/-! ## Helpers -/

/-- The state an outcome leaves, if it leaves one. -/
def left? (o : Host.Outcome State Fault Refusal) : Option State :=
  match o with
  | .next s => some s
  | .fault _ => none
  | .refused _ => none

/-- The state after a command word; the reset state where a step leaves none. -/
def cmd (w : Nat) (s : State) : State := (left? (step (s.withFetchWord 32 w))).getD State.reset

/-- A buffer of the given byte values. -/
def buf (l : List Nat) : Buffer := Buffer.ofBytes (l.map (BitVec.ofNat 8))

/-- The byte values of a buffer. -/
def vals (b : Buffer) : List Nat := b.bytes.map BitVec.toNat

/-- `ERR`, `LASTERR` and `ERRINFO`. -/
def errs (s : State) : Nat × Nat × Nat := (s.err.toNat, s.lastErr.toNat, s.errInfo.toNat)

/-- The first samples of granule 0, channel 0. -/
def samples (s : State) (n : Nat) : List Int := (List.range n).map fun i => (Memory.read s.samp i).toInt

/-- A reset state with the given input. -/
def input (l : List Nat) : State := { State.reset with ibuf := buf l }

/-- A one-channel frame of 96 bytes at offset 0, its header and side information valid, the given main
data in `MDBUF`. -/
def mono (md : List Nat) : State :=
  { State.reset with
    hValid := true
    siValid := true
    mdValid := true
    mdbuf := buf md
    hdr := { Header.reset with version := 3, layer := 3, srIdx := 1, channels := 1, frameSize := 96 } }

/-- `mono` with block (0, 0) given. -/
def monoWith (md : List Nat) (g : SideBlock) : State :=
  { mono md with si := { SideBlocks.reset with g0c0 := g } }

/-! ## Well-formedness, decoding and encoding -/

theorem test_wf_refuses_length_33 : Instr.wf (.rdbits .ibuf false 33) = false := by decide

theorem test_wf_accepts_length_32 : Instr.wf (.rdbits .obuf true 32) = true := by decide

/-- A word written out from R111 and R112 for every constructor; the operands are set apart. -/
theorem test_decode_control :
    decodeTableWord 32 0x00000000 = some .nop ∧ decodeTableWord 32 0x01000000 = some .srst ∧
    decodeTableWord 32 0x02000000 = some .clrerr ∧ decodeTableWord 32 0x03000000 = some .sinit ∧
    decodeTableWord 32 0b00010000011100000000000000010001 = some (.rdbits .code true 17) := by decide

theorem test_decode_parser :
    decodeTableWord 32 0x20000000 = some .hdr ∧ decodeTableWord 32 0x21000000 = some .side ∧
    decodeTableWord 32 0x22000000 = some .resv ∧
    decodeTableWord 32 0b00100011000000000000000000000010 = some (.scf 1 0) ∧
    decodeTableWord 32 0b00100011000000000000000000000001 = some (.scf 0 1) ∧
    decodeTableWord 32 0x24000000 = some .adv := by decide

theorem test_decode_spectrum :
    decodeTableWord 32 0b00110000000000000000000001010110 = some (.hufpair 1 0 22) ∧
    decodeTableWord 32 0b00110000000000000000000000101001 = some (.hufpair 0 1 9) ∧
    decodeTableWord 32 0b00110001000000000000000000000101 = some (.hufquad 1 0 true) ∧
    decodeTableWord 32 0b00110001000000000000000000000010 = some (.hufquad 0 1 false) ∧
    decodeTableWord 32 0b00110010000000000000000000000010 = some (.spec 1 0) := by decide

theorem test_decode_coder :
    decodeTableWord 32 0x40000000 = some (.acinit .encode) ∧
    decodeTableWord 32 0x40000001 = some (.acinit .decode) ∧
    decodeTableWord 32 0x41000001 = some (.acencb true) ∧ decodeTableWord 32 0x42000000 = some .acdecb ∧
    decodeTableWord 32 0x43000000 = some .acflush ∧ decodeTableWord 32 0x44000000 = some .acenc ∧
    decodeTableWord 32 0x45000000 = some .acdec := by decide

theorem test_decode_container :
    decodeTableWord 32 0x50000000 = some .ser ∧ decodeTableWord 32 0x51000000 = some .emit ∧
    decodeTableWord 32 0x52000000 = some .frame ∧ decodeTableWord 32 0x53000000 = some .run := by decide

/-- R113: (a) no such opcode, (b) a reserved bit, (c) `len = 33`, `buf = 5`. -/
theorem test_decode_refuses :
    decode 0x04000000 = .error .unassignedOpcode ∧ decode 0x54000000 = .error .unassignedOpcode ∧
    decode 0x00000001 = .error .reservedBits ∧ decode 0x10000040 = .error .reservedBits ∧
    decode 0x23000004 = .error .reservedBits ∧ decode 0x30000080 = .error .reservedBits ∧
    decode 0x10000021 = .error .lengthOver32 ∧ decode 0x10A00008 = .error .noSuchBuffer :=
  ⟨rfl, rfl, rfl, rfl, rfl, rfl, rfl, rfl⟩

/-- R114, R165: the words of the examples. -/
theorem test_encode :
    encode (.rdbits .ibuf true 12) = 0x1010000C ∧ encode (.scf 1 0) = 0x23000002 ∧
    encode (.hufpair 0 1 24) = 0x30000038 ∧ encode .run = 0x53000000 := by decide

/-! ## The tables -/

/-- The Kraft sum of a table in units of `2^-20`. -/
def kraft (es : List CodeWord) : Nat := (es.map fun e => 2 ^ (20 - e.len)).sum

/-- R231: `dim · dim` entries each; Kraft equality. -/
theorem test_trees_complete :
    defaultHtab.all (fun p => p.2.entries.length == p.2.dim * p.2.dim && kraft p.2.entries == 2 ^ 20) = true ∧
    kraft quadTableA = 2 ^ 20 ∧ quadTableA.length = 16 := by decide +kernel

/-- R283: the default `region_of` for `N = 20` (V9d). -/
theorem test_region_of :
    [0, 57, 58, 115, 116, 1150, 1151, 1152, 2303, 4607, 4608].map (Config.default.regionOf 20) =
      [0, 0, 1, 1, 2, 19, 19, 0, 19, 19, 0] := by decide +kernel

/-! ## One step of each command -/

/-- R160. -/
theorem test_nop : errs (cmd 0x00000000 { State.reset with err := 0x8, lastErr := 3, errInfo := 7 }) = (8, 0, 0) := by
  decide +kernel

/-- R161, R390: `ERR`, `FRAMES`, `OBUF` reset; the input and its offset kept. -/
theorem test_srst :
    cmd 0x01000000
      { input [1, 2] with err := 2, frames := 3, obuf := buf [9], startOff := 3, foff := 7, cfgNreg := 4 } =
      { input [1, 2] with startOff := 3, cfgNreg := 4 } := by decide +kernel

/-- R162: `ERR = 0x42` before, 0 after. -/
theorem test_clrerr : errs (cmd 0x02000000 { State.reset with err := 0x42 }) = (0, 0, 0) := by decide +kernel

/-- R163: `START_OFF = 3`. -/
theorem test_sinit :
    let s := cmd 0x03000000 { State.reset with startOff := 3, obuf := buf [1], ring := [96], done := true }
    s.foff = 3 ∧ s.obuf.len = 0 ∧ s.ring = [] ∧ s.done = false := by decide +kernel

/-- R165: five bytes spanned. -/
theorem test_rdbits :
    (cmd 0x10000020 { input [0xA5, 0x3C, 0xF0, 0x0F, 0x81] with cur := 6 }).res = 0x4F3C03E0 := by
  decide +kernel

/-- V1: `CUR` wraps, the first missing bit is named. -/
theorem test_rdbits_wraps :
    let s := cmd 0x10100010 { input [0xA5, 0x3C] with cur := 0xFFFFFFF8 }
    s.cur = 8 ∧ s.res = 0 ∧ errs s = (4, 2, 4294967288) := by decide +kernel

/-- R182, R185. -/
theorem test_hdr :
    let s := cmd 0x20000000 (input [0xFF, 0xFB, 0x92, 0x00])
    s.hValid = true ∧ s.hdr.frameSize = 418 ∧ s.hdr.bitrate = 128000 ∧ s.hdr.srate = 44100 ∧
      s.hdr.channels = 2 ∧ errs s = (0, 0, 0) := by decide +kernel

/-- R182: beyond the input both InvalidFrame and TruncatedInput, `LASTERR = 1`. -/
theorem test_hdr_empty : errs (cmd 0x20000000 State.reset) = (6, 1, 0) := by decide +kernel

/-- R190's example. -/
theorem test_side :
    let s := cmd 0x21000000 (cmd 0x20000000
      (input ([0xFF, 0xFB, 0x14, 0xC0, 0, 0, 0, 0x48, 0x05, 0x2C, 0x02, 0x80] ++ List.replicate 9 0)))
    s.mdb = 0 ∧ s.siValid = true ∧
      s.si.g0c0 = { SideBlock.reset with p23len := 18, bigv := 2, ggain := 150, tsel0 := 5 } ∧
      s.si.g1c0 = SideBlock.reset := by decide +kernel

/-- R200's example: offsets 71 to 95 and 117 to 191, then 213 to 287; byte `a` of the input is `a mod 256`. -/
theorem test_resv :
    let s := cmd 0x22000000
      { mono [] with ibuf := buf (List.range 288), foff := 192, ring := [96, 96], mdb := 100 }
    s.mdbuf.len = 175 ∧ (s.mdbuf.read 0).toNat = 71 ∧ (s.mdbuf.read 24).toNat = 95 ∧
      (s.mdbuf.read 25).toNat = 117 ∧ (s.mdbuf.read 100).toNat = 213 ∧ s.mdValid = true := by decide +kernel

/-- V5: one byte more than the history holds. -/
theorem test_resv_inconsistent :
    errs (cmd 0x22000000 { mono [] with foff := 192, ring := [96, 96], mdb := 151 }) = (0x10 + 4, 4, 192) := by
  decide +kernel

/-- R207's example. -/
theorem test_scf_long :
    let s := cmd 0x23000000
      (monoWith [0x1B, 0x1B, 0x1B, 0x1B, 0x1B, 0x3F, 0xFF, 0x80] { SideBlock.reset with sfcomp := 9 })
    (List.range 21).map (fun i => (s.scfLRead 0 0 i).toNat) =
      [0, 1, 2, 3, 0, 1, 2, 3, 0, 1, 2, 3, 0, 1, 2, 3, 0, 1, 2, 3, 0] ∧ s.cur = 42 := by decide +kernel

/-- R209's example. -/
theorem test_scf_mixed :
    let s := cmd 0x23000000
      (monoWith [0x1B, 0x1B, 0xC4, 0x66, 0xD5, 0x55, 0x50]
        { SideBlock.reset with sfcomp := 8, wsw := 1, btype := 2, mixed := 1 })
    (List.range 13).map (fun i => (s.scfSRead 0 0 2 i).toNat) = [0, 0, 0, 1, 2, 3, 0, 1, 0, 1, 0, 1, 0] ∧
      (s.scfLRead 0 0 7).toNat = 3 ∧ s.cur = 52 := by decide +kernel

/-- R216's example. -/
theorem test_adv :
    let s := cmd 0x24000000
      { mono [] with ring := [96, 96], foff := 192, hdr := { Header.reset with frameSize := 417 } }
    s.ring = [417, 96, 96] ∧ s.foff = 609 ∧ s.hValid = false := by decide +kernel

/-- R235's example: an escape of 10 and an escape of 0 with a sign. -/
theorem test_hufpair :
    let s := cmd 0x30000018 (mono [0x3A, 0x04])
    samples s 2 = [25, -15] ∧ s.cur = 14 ∧ s.idx = 2 := by decide +kernel

/-- R233: table 4 fails and changes nothing else. -/
theorem test_hufpair_table_4 :
    cmd 0x30000004 { mono [0x80] with cur := 5 } =
      { mono [0x80] with cur := 5, err := 8, lastErr := 3, errInfo := 5 } := by decide +kernel

/-- R238's example. -/
theorem test_hufquad :
    let s := cmd 0x31000001 (mono [0x68])
    samples s 4 = [-1, 0, 0, 1] ∧ s.cur = 6 ∧ s.idx = 4 := by decide +kernel

/-- V7b: the prefix code, `0x15` gives 0, 1, 0, −1. -/
theorem test_hufquad_prefix_code :
    let s := cmd 0x31000000 (mono [0x15])
    samples s 4 = [0, 1, 0, -1] ∧ s.cur = 8 := by decide +kernel

/-- V8a, an old sample at index 9 zeroed. -/
theorem test_spec :
    let s := cmd 0x32000000
      { monoWith [0x28, 0xE5, 0xC0] { SideBlock.reset with p23len := 18, bigv := 2, tsel0 := 5 } with
        samp := [(9, 7)] }
    samples s 10 = [1, -1, 2, 0, 0, 0, 0, -1, 0, 0] ∧ s.si.g0c0.nzc = 12 ∧ s.cur = 18 ∧
      errs s = (0, 0, 0) := by decide +kernel

/-- V8g: the third pair's table 4 stops the granule; `CUR` still goes to its end. -/
theorem test_spec_failure :
    let s := cmd 0x32000000
      (monoWith [0x9F, 0x80] { SideBlock.reset with p23len := 20, bigv := 3, tsel0 := 1, tsel1 := 4 })
    samples s 5 = [0, 0, 0, -1, 0] ∧ s.si.g0c0.nzc = 4 ∧ s.cur = 20 ∧ errs s = (8, 3, 5) := by decide +kernel

/-- R281's example. -/
theorem test_acinit :
    let s := cmd 0x40000001 { State.reset with code := buf [0xDE, 0xFF, 0xF0, 0x07] }
    s.ac.xval = 0xDEFFF007 ∧ s.ac.cpos = 4 ∧ s.acMode = .decoding := by decide +kernel

/-- R286's example: a fresh encoder codes 0. -/
theorem test_acencb :
    let s := cmd 0x41000000 (cmd 0x40000000 State.reset)
    s.ac.low = 0x7FFFF801 ∧ s.ac.high = 0xFFFFFFFF ∧ (s.cntRead 0 1 0).toNat = 1 ∧ s.ac.ctx = 2 ∧
      s.code.len = 0 := by decide +kernel

/-- R295: a count of 65534 is halved when it is coded again, the other rounded down. -/
theorem test_acencb_halves :
    let s := cmd 0x41000000
      { State.reset with
        acMode := .encoding, cfgModel := 0
        ac := { Coder.reset with cnt := [(cntAddr 0 1 false, 65534), (cntAddr 0 1 true, 11)] } }
    (s.cntRead 0 1 0).toNat = 32767 ∧ (s.cntRead 0 1 1).toNat = 5 := by decide +kernel

/-- R287's example. -/
theorem test_acdecb :
    let s := cmd 0x42000000 (cmd 0x40000001 { State.reset with code := buf [0xDE, 0xFF, 0xF0, 0x07] })
    s.res = 0 ∧ s.ac.low = 0x7FFFF801 ∧ s.ac.ctx = 2 ∧ s.ac.cpos = 4 := by decide +kernel

/-- R290's example. -/
theorem test_acflush :
    let s := cmd 0x43000000
      { State.reset with acMode := .encoding, ac := { Coder.reset with low := 0xDEFFF007 } }
    vals s.code = [0xDE, 0xFF, 0xF0, 0x07] ∧ s.acMode = .idle := by decide +kernel

/-- R288's example: `61 62 63`. -/
theorem test_acenc :
    vals (cmd 0x44000000 { State.reset with plain := buf [0x61, 0x62, 0x63] }).code =
      [0xCF, 0x5A, 0xD7, 0xC0, 0x93, 0x00] := by decide +kernel

/-- R289's examples: `DE FF F0 07`, and an exhausted stream. -/
theorem test_acdec :
    vals (cmd 0x45000000 { State.reset with code := buf [0xDE, 0xFF, 0xF0, 0x07] }).plain = [0x41] := by
  decide +kernel

theorem test_acdec_exhausted :
    let s := cmd 0x45000000 { State.reset with code := buf [0xFF, 0xFF, 0xFF, 0xFF] }
    vals s.plain = [0] ∧ errs s = (0x800, 11, 5) := by decide +kernel

/-- R321's example and R362: with room for six bytes the six first are there, and CapacityFault(2). -/
theorem test_ser :
    let s := cmd 0x50000000
      { mono [] with
        cfg := { Config.default with plainCap := some 6 }
        samp := [(0, 1), (1, 0xFFFF), (2, 2), (7, 0xFFFF)] }
    vals s.plain = [0, 1, 0xFF, 0xFF, 0, 2] ∧ errs s = (0x1000, 12, 2) := by decide +kernel

/-- R360: no valid header. -/
theorem test_emit_precondition :
    cmd 0x51000000 State.reset =
      { State.reset with err := 0x200, lastErr := 9, errInfo := 0x51000000 } := by decide +kernel

/-- R362: with no room in `PLAIN` the command stops in `SER`; nothing is emitted. -/
theorem test_emit_capacity :
    let s := cmd 0x51000000 { mono [] with cfg := { Config.default with plainCap := some 0 } }
    errs s = (0x1000, 12, 2) ∧ s.obuf.len = 0 ∧ s.frames = 0 ∧ s.code.len = 0 := by decide +kernel

/-- R326: an invalid header is stepped over by one byte and empties the history. -/
theorem test_frame_skips_a_byte :
    let s := cmd 0x52000000 { input [1, 2, 3, 4, 5] with ring := [96] }
    s.foff = 1 ∧ s.skipped = 1 ∧ s.ring = [] ∧ errs s = (2, 1, 0) := by decide +kernel

/-- R326, V10d: a Layer II frame is stepped over whole. -/
theorem test_frame_skips_a_frame :
    let s := cmd 0x52000000 (input [0xFF, 0xFD, 0x14, 0xC0, 0])
    s.foff = 96 ∧ s.skipped = 1 ∧ s.hValid = false ∧ errs s = (0x80, 7, 0) := by decide +kernel

/-- V10c: an empty input. -/
theorem test_run_empty :
    let s := cmd 0x53000000 State.reset
    errs s = (0x20, 5, 0) ∧ s.done = true := by decide +kernel

/-- V10c: no frame in `61 62 63 64` and two bytes more: two bytes searched. -/
theorem test_run_no_frames :
    let s := cmd 0x53000000 (input [0x61, 0x62, 0x63, 0x64, 0x65, 0x66])
    errs s = (0x42, 6, 2) ∧ s.foff = 2 ∧ s.skipped = 2 ∧ s.done = true := by decide +kernel

/-! ## The host -/

/-- R21, R28, R31: `CFG_NREG` is clamped, `FOFF` clears the valid bits, `ERR` is read-only. -/
theorem test_host_writes :
    ((State.reset.regWrite 0x06 0).cfgNreg = 1) ∧ ((State.reset.regWrite 0x06 33).cfgNreg = 32) ∧
    (((mono []).regWrite 0x09 5).mdValid = false) ∧ ((State.reset.regWrite 0x02 5).err = 0) := by
  decide +kernel

/-- R40, R38, R44, R60: the last register of the last block, a ring entry, `CPOS`, and a number between two
groups. -/
theorem test_register_map :
    let s : State :=
      { State.reset with
        si := { SideBlocks.reset with g1c1 := { SideBlock.reset with nzc := 576 } }
        ring := [417, 96]
        ac := { Coder.reset with cpos := 9 } }
    s.regRead 0xF2 = 576 ∧ s.regRead 0x32 = 96 ∧ s.regRead 0x33 = 0 ∧ s.regRead 0x65 = 9 ∧
      s.regRead 0x2E = 0 := by decide +kernel

/-- R81, R403: a load of `CODE` leaves the coder and the valid bits as they were. -/
theorem test_load_code :
    let s := (left? (step { mono [] with acMode := .decoding, host := [.loadCode [7, 0]] })).getD State.reset
    vals s.code = [7, 0] ∧ s.mdValid = true ∧ s.acMode = .decoding := by decide +kernel

/-- R380: with no host action pending nothing changes. -/
theorem test_idle : left? (step State.reset) = some State.reset := by decide +kernel

/-! ## Every command completes from reset -/

/-- One of each. -/
def oneOfEach : List Instr :=
  [.nop, .srst, .clrerr, .sinit, .rdbits .ibuf false 0, .rdbits .obuf true 32, .hdr, .side, .resv, .scf 0 0,
   .adv, .hufpair 0 0 0, .hufquad 0 0 true, .spec 0 0] ++
  [.acinit .encode, .acinit .decode, .acencb false, .acencb true, .acdecb, .acflush, .acenc, .acdec, .ser,
   .emit, .frame, .run]

/-- Premises of the frame statements: each command leaves a state, from reset and from a state with every
valid bit set. -/
theorem witness_frames_reset : oneOfEach.all (fun i => (left? (exec i State.reset)).isSome) = true := by
  decide +kernel

theorem witness_frames_valid :
    [Instr.side, .resv, .scf 0 0, .adv, .hufpair 0 0 5, .hufquad 0 0 false, .spec 0 0, .ser].all
      (fun i => (left? (exec i (mono [0x15, 0x3A]))).isSome) = true := by decide +kernel

/-- `EMIT` and `FRAME` leave a state on a supported frame (by computation alone, without running the
coder). -/
theorem witness_frames_emit : (∃ t, exec .emit (mono []) = .next t) ∧
    ∃ t, exec .frame (input [0xFF, 0xFB, 0x14, 0xC0, 0]) = .next t := ⟨⟨_, rfl⟩, ⟨_, rfl⟩⟩

/-! ## Witnesses for the hypotheses of the statements -/

theorem witness_decode_encode : Instr.wf (.rdbits .obuf true 32) = true ∧ Instr.wf .run = true := by decide

theorem witness_decoded_word : decode 0x10000020 = .ok (.rdbits .ibuf false 32) := rfl

theorem not_legal_0x04000000 : ¬ Reference.legalWord 0x04000000 := by
  rintro ⟨⟨r, hr, hf⟩, -⟩
  exact absurd (List.any_eq_true (p := fun r => r.fits 0x04000000).mpr ⟨r, hr, hf⟩) (by decide +kernel)

theorem witness_illegal_word : ∃ (s : State) (rest : List HostOp) (w : Word),
    s.host = .regWrite 0 w :: rest ∧ ¬ Reference.legalWord w :=
  ⟨{ State.reset with host := [.regWrite 0 0x04000000] }, [], _, rfl, not_legal_0x04000000⟩

theorem witness_step_runs : ∃ (s : State) (rest : List HostOp) (w : Word) (i : Instr),
    s.host = .regWrite 0 w :: rest ∧ decode w = .ok i :=
  ⟨{ State.reset with host := [.regWrite 0 0x53000000] }, [], 0x53000000, .run, rfl, rfl⟩

theorem witness_failed_precondition : ∃ (i : Instr) (s : State), i.wf = true ∧ ¬ Reference.precondition i s :=
  ⟨.hufpair 0 0 0, { mono [] with idx := 575 }, by decide, fun h => absurd h.2.2 (by decide)⟩

theorem witness_met_precondition : ∃ (i : Instr) (s t : State), Reference.precondition i s ∧ i ≠ .srst ∧
    i ≠ .clrerr ∧ exec i s = .next t :=
  ⟨.hufpair 0 0 0, { mono [] with idx := 574 }, _, ⟨by decide, by decide, by decide⟩, by decide, by decide, rfl⟩

/-- The buffer is full exactly at its capacity; here 1. -/
theorem witness_full_buffer :
    (∃ (b : BufId) (s : State), s.cap b = some (s.buf b).len) ∧
    ∃ s : State, s.acMode = .encoding ∧ s.cfg.codeCap = some s.code.len :=
  ⟨⟨.obuf, { State.reset with obuf := buf [7], cfg := { Config.default with obufCap := some 1 } }, rfl⟩,
   ⟨{ State.reset with acMode := .encoding, code := buf [7], cfg := { Config.default with codeCap := some 1 } },
     rfl, rfl⟩⟩

/-- `ACFLUSH` with one byte too few; `ACENCB` with a byte to write and no room. -/
theorem witness_full_code :
    (∃ (s : State) (n : Nat), s.acMode = .encoding ∧ n < 4 ∧ s.cfg.codeCap = some (s.code.len + n)) ∧
    ∃ (y : Bool) (s : State), s.acMode = .encoding ∧ s.ac.low.toNat ≤ s.ac.high.toNat ∧
      s.cfg.codeCap = some s.code.len ∧ Reference.goesOn (Reference.decided y s).ac = true :=
  ⟨⟨{ State.reset with acMode := .encoding, cfg := { Config.default with codeCap := some 3 } }, 3, rfl,
      by decide, rfl⟩,
   ⟨true,
    { State.reset with
      acMode := .encoding
      ac := { Coder.reset with low := 0x7F000000, high := 0x80000000 }
      cfg := { Config.default with codeCap := some 0 } },
    rfl, by decide, rfl, by decide +kernel⟩⟩

/-- `SER` and `EMIT` with one byte too few for one channel; `EMIT` with `OBUF` full. -/
theorem witness_full_plain :
    (∃ (s : State) (c : Nat), s.hValid = true ∧ s.siValid = true ∧ (s.hdr.channels = 1 ∨ s.hdr.channels = 2) ∧
      s.cfg.plainCap = some c ∧ c < 2304 * s.hdr.channels.toNat) ∧
    ∃ s : State, s.hValid = true ∧ s.siValid = true ∧ s.cfg.plainCap = none ∧ s.cfg.codeCap = none ∧
      s.cfg.obufCap = some s.obuf.len :=
  ⟨⟨{ mono [] with cfg := { Config.default with plainCap := some 2303 } }, 2303, rfl, rfl, .inl rfl, rfl,
      by decide⟩,
   ⟨{ mono [] with cfg := { Config.default with obufCap := some 0 } }, rfl, rfl, rfl, rfl, rfl⟩⟩

/-- A state in which `EMIT` stops at a full buffer. -/
theorem witness_emit_stops : ∃ s t : State, exec .emit s = .next t ∧ t.lastErr = 12 :=
  ⟨{ mono [] with cfg := { Config.default with plainCap := some 0 } }, _, rfl, by decide +kernel⟩

/-- A state in which `FRAME` does. -/
theorem witness_frame_stops : ∃ s t : State, exec .frame s = .next t ∧ t.lastErr = 12 :=
  ⟨{ input [0xFF, 0xFB, 0x14, 0xC0, 0] with cfg := { Config.default with plainCap := some 0 } }, _, rfl,
    by decide +kernel⟩

/-- `LASTERR` after a command that leaves a state. -/
def lastErrOf (i : Instr) (s : State) : Option Nat := (left? (exec i s)).map (·.lastErr.toNat)

theorem stops_of_lastErr {i : Instr} {s : State} (h : lastErrOf i s = some 12) :
    ∃ t, exec i s = .next t ∧ t.lastErr = 12 := by
  unfold lastErrOf at h
  cases he : exec i s with
  | next t =>
    rw [he] at h
    exact ⟨t, rfl, BitVec.eq_of_toNat_eq (Option.some.inj h)⟩
  | fault _ => rw [he] at h; cases h
  | refused _ => rw [he] at h; cases h

/-- States in which `ACDEC` and `RUN` do. -/
theorem witness_acdec_stops : ∃ s t : State, exec .acdec s = .next t ∧ t.lastErr = 12 :=
  ⟨{ State.reset with code := buf [0xFF, 0xFF, 0xFF, 0xFF], cfg := { Config.default with plainCap := some 0 } },
    stops_of_lastErr (by decide +kernel)⟩

theorem witness_run_stops : ∃ s t : State, exec .run s = .next t ∧ t.lastErr = 12 :=
  ⟨{ input [0xFF, 0xFB, 0x14, 0xC0, 0] with cfg := { Config.default with plainCap := some 0 } },
    stops_of_lastErr (by decide +kernel)⟩

theorem witness_sticky : ∃ (s t : State) (k : Nat), step s = .next t ∧ s.err.getLsbD k = true ∧
    ∀ rest, s.host ≠ .regWrite 0 0x01000000 :: rest ∧ s.host ≠ .regWrite 0 0x02000000 :: rest :=
  ⟨{ State.reset with err := 2, host := [.regWrite 0 0] }, _, 1, rfl, by decide, fun _ =>
    ⟨fun h => absurd (List.cons.inj h).1 (by decide), fun h => absurd (List.cons.inj h).1 (by decide)⟩⟩

theorem witness_last_err : ∃ (i : Instr) (s t : State), exec i s = .next t ∧ i ≠ .srst ∧ i ≠ .clrerr ∧
    t.lastErr = 0 := ⟨.sinit, State.reset, _, rfl, by decide, by decide, rfl⟩

theorem witness_rdbits : ∃ len : Nat, len ≤ 32 ∧ ¬ len + 1 ≤ 32 := ⟨32, by decide⟩

theorem witness_bit_slice : ∃ (b : Buffer) (off n total : Nat), off + n ≤ total ∧ 8 * b.len ≤ total :=
  ⟨buf [1, 2], 5, 11, 16, by decide⟩

theorem witness_frame_size : headerRejected 0xFFFB9000 = false ∧
    (parseHeader Config.default 0xFFFB9000).version = 3 ∧
    (parseHeader Config.default 0xFFFB9000).layer = 3 := by decide +kernel

theorem witness_side : ∃ s : State, s.hValid = true ∧ s.hdr.version = 3 ∧ s.hdr.layer = 3 ∧
    (s.hdr.channels = 1 ∨ s.hdr.channels = 2) := ⟨mono [], rfl, rfl, rfl, .inl rfl⟩

/-- Three frames, the last of them at its reservoir's limit: success and failure. -/
theorem witness_resv :
    (∃ s t : State, s.siValid = true ∧ exec .resv s = .next t ∧ t.mdValid = true) ∧
    ∃ s t : State, s.siValid = true ∧ exec .resv s = .next t ∧ t.mdValid = false :=
  ⟨⟨{ mono [] with foff := 192, ring := [96, 96], mdb := 150 }, _, rfl, rfl, by decide +kernel⟩,
   ⟨{ mono [] with foff := 192, ring := [96, 96], mdb := 151 }, _, rfl, rfl, by decide +kernel⟩⟩

/-- The second channel of a two-channel frame, the widest fields. -/
theorem witness_scf_long : ∃ (s : State) (gr ch : Fin 2), s.mdValid = true ∧
    ch.val < s.hdr.channels.toNat ∧ s.cur.toNat < 2 ^ 31 ∧
    ¬ ((s.si.get gr ch).wsw = 1 ∧ (s.si.get gr ch).btype = 2) ∧
    (s.cfg.slen (s.si.get gr ch).sfcomp.toNat).1 ≤ 4 ∧ (s.cfg.slen (s.si.get gr ch).sfcomp.toNat).2 ≤ 4 :=
  ⟨{ mono [] with
      hdr := { (mono []).hdr with channels := 2 }, cur := 0x7FFFFFFF
      si := { SideBlocks.reset with g1c1 := { SideBlock.reset with sfcomp := 15 } } },
    1, 1, by decide +kernel⟩

/-- A short and a mixed block. -/
theorem witness_scf_short : ∀ m : BitVec 1, ∃ (s : State) (gr ch : Fin 2), s.mdValid = true ∧
    ch.val < s.hdr.channels.toNat ∧ s.cur.toNat < 2 ^ 31 ∧
    (s.si.get gr ch).wsw = 1 ∧ (s.si.get gr ch).btype = 2 ∧ (s.si.get gr ch).mixed = m ∧
    (s.cfg.slen (s.si.get gr ch).sfcomp.toNat).1 ≤ 4 ∧ (s.cfg.slen (s.si.get gr ch).sfcomp.toNat).2 ≤ 4 :=
  fun m =>
    ⟨monoWith [] { SideBlock.reset with sfcomp := 15, wsw := 1, btype := 2, mixed := m },
      0, 0, rfl, (by decide : 0 < (1 : BitVec 2).toNat), (by decide : (0 : BitVec 32).toNat < 2 ^ 31),
      rfl, rfl, rfl, (by decide : (Config.default.slen 15).1 ≤ 4), (by decide : (Config.default.slen 15).2 ≤ 4)⟩

/-- Both clauses of the bound on `SCF`. -/
theorem witness_scf_bound : ∀ w : BitVec 1, ∃ (s t : State) (gr ch : Fin 2), s.cfg = Config.default ∧
    s.mdValid = true ∧ ch.val < s.hdr.channels.toNat ∧ exec (.scf gr ch) s = .next t ∧
    (s.si.get gr ch).wsw = w ∧ (s.si.get gr ch).btype = 2 :=
  fun w =>
    ⟨monoWith [] { SideBlock.reset with wsw := w, btype := 2 }, _, 0, 0, rfl, rfl,
      (by decide : 0 < (1 : BitVec 2).toNat), rfl, rfl, rfl⟩

theorem witness_valid_header : ∃ s : State, s.hValid = true := ⟨mono [], rfl⟩

/-- A code word of one bit and one of 32 bits. -/
theorem witness_match : ∃ (es : List CodeWord), uniquelyDecodable es ∧ es[0]? = some ⟨1, 1⟩ ∧
    es[1]? = some ⟨5, 32⟩ := by
  refine ⟨[⟨1, 1⟩, ⟨5, 32⟩], ?_, rfl, rfl⟩
  intro i j e f he hf hij hl
  match i, j with
  | 0, 0 => exact absurd rfl hij
  | 1, 1 => exact absurd rfl hij
  | 0, 1 => cases he; cases hf; decide
  | 1, 0 => cases he; cases hf; exact absurd hl (by decide)
  | 0, _ + 2 => cases hf
  | 1, _ + 2 => cases hf
  | _ + 2, _ => cases he

/-- `HUFPAIR` and `HUFQUAD` at the last place that has room, with the default tables. -/
theorem witness_huffman : ∃ s t u : State, s.cfg = Config.default ∧
    Reference.precondition (.hufpair 0 0 4) s ∧ exec (.hufpair 0 0 4) s = .next t ∧
    Reference.precondition (.hufquad 0 0 true) { s with idx := 572 } ∧
    exec (.hufquad 0 0 true) { s with idx := 572 } = .next u :=
  ⟨{ mono [] with idx := 574 }, _, _, rfl, ⟨by decide, by decide, by decide⟩, rfl,
    ⟨by decide, by decide, by decide⟩, rfl⟩

theorem witness_samples : ∃ s t : State, s.cfg = Config.default ∧ s.SamplesInRange ∧ step s = .next t :=
  ⟨State.reset, _, rfl, fun _ => (by decide : -8206 ≤ (0 : BitVec 16).toInt ∧ (0 : BitVec 16).toInt ≤ 8206), rfl⟩

theorem witness_spec : Reference.precondition (.spec 0 0) (mono []) := ⟨by decide, by decide⟩

theorem reset_coderOk : State.reset.CoderOk where
  interval := by decide
  topBytes := by decide
  xval := fun h => nomatch h
  ctx := by decide
  counts := fun _ => (by decide : (0 : BitVec 16).toNat ≤ 65534)
  nreg := by decide
  cntWf := by decide

theorem witness_split : ∃ s : State, s.CoderOk := ⟨_, reset_coderOk⟩

/-- Both sides of the ceiling and of the symbol boundary. -/
theorem witness_model_update :
    (∀ k : BitVec 10, k = 1 ∨ k = 255 ∨ k = 256 ∨ k = 511 → 1 ≤ k.toNat ∧ k.toNat ≤ 511) ∧
    ∀ n : BitVec 16, n = 65533 ∨ n = 65534 → ∃ c : Coder, c.ctx = 255 ∧
      Memory.read c.cnt (cntAddr 31 c.ctx.toNat true) = n := by
  refine ⟨?_, ?_⟩
  · rintro k (rfl | rfl | rfl | rfl) <;> decide
  · rintro n -
    refine ⟨{ Coder.reset with ctx := 255, cnt := [(cntAddr 31 255 true, n)] }, rfl, ?_⟩
    exact if_pos rfl

theorem witness_encoder : ∃ s : State, s.acMode = .encoding ∧ s.ac.low.toNat ≤ s.ac.high.toNat ∧
    s.hasRoom .code 4 ∧ s.cfg.codeCap = none :=
  ⟨{ State.reset with acMode := .encoding }, rfl, by decide, fun _ h => absurd h (Option.some_ne_none _ ∘ Eq.symm), rfl⟩

/-- Exactly four bytes of room. -/
theorem witness_encoder_bounded : ∃ s : State, s.acMode = .encoding ∧ s.hasRoom .code 4 ∧
    s.cfg.codeCap = some 4 :=
  ⟨{ State.reset with acMode := .encoding, cfg := { Config.default with codeCap := some 4 } }, rfl,
    fun c h => by cases h; decide, rfl⟩

theorem witness_decoder : ∃ s : State, s.acMode = .decoding ∧ s.ac.low.toNat ≤ s.ac.high.toNat ∧
    s.code.len ≤ 2 ^ 28 - 2 ^ 12 ∧ s.cfg.plainCap = none :=
  ⟨{ State.reset with acMode := .decoding }, rfl, by decide, by decide, rfl⟩

theorem witness_round_trip : ∃ s t : State, s.cfg.plainCap = none ∧ s.cfg.codeCap = none ∧
    exec .acenc s = .next t ∧ t.code.len ≤ 2 ^ 28 - 2 ^ 12 :=
  ⟨{ State.reset with plain := buf [0x41] }, _, rfl, rfl, rfl, by decide +kernel⟩

theorem witness_ser : ∃ s : State, s.hValid = true ∧ (s.hdr.channels = 1 ∨ s.hdr.channels = 2) ∧
    s.cfg.plainCap = some 2304 ∧ ∀ c, s.cfg.plainCap = some c → 2304 * s.hdr.channels.toNat ≤ c :=
  ⟨{ mono [] with cfg := { Config.default with plainCap := some 2304 } }, rfl, .inl rfl, rfl,
    fun c h => by cases h; decide⟩

theorem witness_emit : (mono []).hValid = true ∧ (mono []).siValid = true ∧
    (mono []).hdr.channels = 1 ∧ (mono []).unbounded := ⟨rfl, rfl, rfl, rfl, rfl, rfl⟩

/-- The three ways `FRAME` emits nothing; 4 bytes are the end, 5 are not. -/
theorem witness_frame_steps :
    (input [1, 2, 3, 4]).ibuf.len ≤ (input [1, 2, 3, 4]).foff.toNat + 4 ∧
    (let s := input [1, 2, 3, 4, 5]
     s.foff.toNat + 4 < s.ibuf.len ∧ (Reference.hdr (Reference.accepted s)).hValid = false) ∧
    (let s := input [0xFF, 0xFD, 0x14, 0xC0, 0]
     s.foff.toNat + 4 < s.ibuf.len ∧ (Reference.hdr (Reference.accepted s)).hValid = true ∧
       ¬ (Reference.hdr (Reference.accepted s)).hdr.layer = 3) := by decide +kernel

theorem witness_frame_emits :
    let s := input [0xFF, 0xFB, 0x14, 0xC0, 0]
    let h := Reference.hdr (Reference.accepted s)
    s.foff.toNat + 4 < s.ibuf.len ∧ h.hValid = true ∧ h.hdr.version = 3 ∧ h.hdr.layer = 3 ∧ s.unbounded :=
  ⟨by decide +kernel, by decide +kernel, by decide +kernel, by decide +kernel, rfl, rfl, rfl⟩

/-- Two states that differ in samples, coder and side information. -/
theorem witness_stale : ∃ s s' t t' : State, s' ≠ s ∧ s'.ibuf = s.ibuf ∧ s'.foff = s.foff ∧
    s'.ring = s.ring ∧ s'.cfgModel = s.cfgModel ∧ s'.cfgNreg = s.cfgNreg ∧ s'.cfg = s.cfg ∧
    s'.obuf = s.obuf ∧ exec .frame s = .next t ∧ exec .frame s' = .next t' :=
  ⟨input [0xFF, 0xFB, 0x14, 0xC0, 0],
    { input [0xFF, 0xFB, 0x14, 0xC0, 0] with samp := [(0, 5)], mdb := 9, scfL := [(3, 2)] }, _, _,
    fun h => absurd (congrArg State.mdb h) (by decide), rfl, rfl, rfl, rfl, rfl, rfl, rfl, rfl, rfl⟩

/-- The frame size from the fields of a header. -/
def sizeOf (c : Config) (ver lay bri sri pad : Nat) : Nat :=
  (BitVec.ofNat 12 (c.spf ver (4 - lay) / 8 * (BitVec.ofNat 19 (1000 * c.bitrate ver (4 - lay) bri)).toNat /
    (BitVec.ofNat 16 (c.srate ver sri)).toNat + pad)).toNat

/-- The fields are rejected, or give a size of 1 to 2881 bytes. -/
def sizeOk (ver lay bri sri pad : Nat) : Bool :=
  ver == 1 || lay == 0 || bri == 0 || bri == 15 || sri == 3 ||
    decide (1 ≤ sizeOf Config.default ver lay bri sri pad ∧ sizeOf Config.default ver lay bri sri pad ≤ 2881)

theorem sizes_default : ∀ (ver lay : Fin 4) (bri : Fin 16) (sri : Fin 4) (pad : Fin 2),
    sizeOk ver lay bri sri pad = true := by decide +kernel

theorem frameSizesPositive_default : frameSizesPositive Config.default := by
  intro w h
  have field_lt : ∀ lo n, field w lo n < 2 ^ n := fun lo n => (w.extractLsb' lo n).isLt
  simp only [headerRejected, Bool.or_eq_false_iff, bne_eq_false_iff_eq, beq_eq_false_iff_ne] at h
  obtain ⟨⟨⟨⟨⟨-, h1⟩, h2⟩, h3⟩, h4⟩, h5⟩ := h
  have := sizes_default ⟨_, field_lt 19 2⟩ ⟨_, field_lt 17 2⟩ ⟨_, field_lt 12 4⟩ ⟨_, field_lt 10 2⟩
    ⟨_, field_lt 9 1⟩
  have size : 1 ≤ sizeOf Config.default (field w 19 2) (field w 17 2) (field w 12 4) (field w 10 2) (field w 9 1) ∧
      sizeOf Config.default (field w 19 2) (field w 17 2) (field w 12 4) (field w 10 2) (field w 9 1) ≤ 2881 := by
    simpa [sizeOk, h1, h2, h3, h4, h5] using this
  exact size

/-- `RUN` on an empty input, on one without a frame and on one with a frame. -/
theorem witness_run : ∀ l : List Nat, l = [] ∨ l = [1, 2, 3, 4, 5] ∨ l = [0xFF, 0xFB, 0x14, 0xC0, 0] →
    (input l).inputFits ∧ frameSizesPositive (input l).cfg ∧ (input l).unbounded := by
  rintro l (rfl | rfl | rfl) <;>
    exact ⟨by unfold State.inputFits; decide, frameSizesPositive_default, rfl, rfl, rfl⟩

theorem witness_memory_form : ∃ s t : State, s.MemWf ∧ step s = .next t :=
  ⟨State.reset, _,
    ⟨rfl, rfl, rfl, rfl, rfl, rfl, rfl, rfl, rfl, by decide, by decide⟩, rfl⟩

/-- A supported frame of the largest size with its side information valid and `MDBUF` at `MD_CAP`. -/
theorem witness_mdbuf_fits : ∃ s t : State, s.cfg = Config.default ∧ s.MdbufFits ∧ s.siValid = true ∧
    s.mdbuf.len = 2048 ∧ step s = .next t :=
  ⟨{ mono [] with mdbuf := ⟨2048, []⟩, hdr := { (mono []).hdr with frameSize := 1441 } }, _, rfl,
    ⟨by decide, fun _ _ _ => by decide, fun _ => ⟨rfl, rfl, rfl⟩⟩, rfl, rfl, rfl⟩

theorem witness_valid_chain : ∃ s t : State, s.ValidChain ∧ s.mdValid = true ∧ step s = .next t :=
  ⟨mono [], _, ⟨fun _ => rfl, fun _ => rfl⟩, rfl, rfl⟩

theorem witness_coder_ok : ∃ s t : State, s.cfg.codeCap = none ∧ s.CoderOk ∧ step s = .next t :=
  ⟨State.reset, _, rfl, reset_coderOk, rfl⟩

/-- A decoder that has just started, on the longest code stream allowed. -/
theorem witness_cpos : ∃ s t : State, s.codeFits ∧ s.CposOk ∧ s.acMode = .decoding ∧
    s.code.len = 2 ^ 28 - 2 ^ 12 ∧ step s = .next t :=
  ⟨{ State.reset with
      acMode := .decoding
      code := ⟨2 ^ 28 - 2 ^ 12, []⟩
      ac := { Coder.reset with cpos := 4 } }, _,
    ⟨Nat.le_refl _, by decide⟩, fun _ => by decide, rfl, rfl, rfl⟩

theorem witness_regs_legal : ∃ s t : State, s.RegsLegal ∧ step s = .next t :=
  ⟨State.reset, _,
    { nreg := by decide, err0 := by decide, lastErr := by decide, ring := by decide
      nzc := by decide, scf12 := fun _ _ _ _ => rfl }, rfl⟩

/-- A state whose header registers were read from its input. -/
theorem witness_describes_frame : ∃ s t : State, s.ValidChain ∧ s.DescribesFrame ∧ s.hValid = true ∧
    step s = .next t :=
  ⟨cmd 0x20000000 (input [0xFF, 0xFB, 0x14, 0xC0]), _,
    ⟨fun h => absurd h (by decide +kernel), fun h => absurd h (by decide +kernel)⟩,
    ⟨fun _ => by decide +kernel, fun h => absurd h (by decide +kernel)⟩, by decide +kernel, rfl⟩

theorem witness_host_writes : ∃ s : State, s.host = [.regWrite 0x06 40, .loadIbuf [1]] ∧
    ∀ c, s.cfg.ibufCap = some c → [(1 : Byte)].length ≤ c :=
  ⟨{ State.reset with host := [.regWrite 0x06 40, .loadIbuf [1]] }, rfl, fun _ h => absurd h (Option.some_ne_none _ ∘ Eq.symm)⟩

/-- A load of each buffer that exactly fits, and one of a byte too many. -/
theorem witness_host_loads : ∀ op : HostOp, op = .loadIbuf [1] ∨ op = .loadPlain [1] ∨ op = .loadCode [1] ∨
    op = .loadCode [1, 2] → ∃ s : State, s.host = [op] ∧ s.cap .ibuf = some 1 ∧ s.cap .plain = some 1 ∧
      s.cap .code = some 1 :=
  fun op _ =>
    ⟨{ State.reset with
        host := [op]
        cfg := { Config.default with ibufCap := some 1, plainCap := some 1, codeCap := some 1 } },
      rfl, rfl, rfl, rfl⟩

/-- The first and the last row of the register map, and a number between two groups that is in no row. -/
theorem witness_register_map (s : State) : (0x00, 0) ∈ Reference.registerMap s ∧
    (0xF2, s.si.g1c1.nzc.toNat) ∈ Reference.registerMap s ∧
    ∀ r ∈ Reference.registerMap State.reset, r.1 ≠ 0x2E := by
  refine ⟨List.mem_append_left _ (List.mem_append_left _ (List.mem_append_left _ (List.mem_append_left _
    (List.mem_append_left _ (List.mem_append_left _ (List.mem_append_left _ (List.mem_append_left _
      (List.mem_cons_self)))))))), List.mem_append_right _ ?_, by decide +kernel⟩
  exact List.mem_of_getElem? (i := 18) rfl

/-- Each kind of host read, in range and just out of it. -/
theorem witness_host_reads : ∀ op : HostOp, op = .regRead 0x61 ∨ op = .bufRead .ibuf 0 1 ∨
    op = .sampRead 1 1 575 ∨ op = .scfLRead 1 1 20 ∨ op = .scfSRead 1 1 2 12 ∨ op = .cntRead 31 511 1 ∨
    op = .sampRead 0 0 576 → ∃ s : State, s.host = [op] := fun op _ => ⟨{ State.reset with host := [op] }, rfl⟩

end Sys2Proof.Tests
end

/-! ## State and host: what a predicate looks at

An invariant usually looks at a few parts of the state. What leaves those parts alone keeps it, by the frame
lemma of the action; only the actions that write one of them are left to argue about. -/

namespace Sys2Proof.Machine

/-- A predicate that looks at the listed parts of a state only. -/
def DependsOn (l : List Part) (P : State → Prop) : Prop :=
  ∀ s t : State, (∀ p ∈ l, p.same s t) → P s → P t

/-- Parts that are none of the changed ones are the same. -/
theorem unchangedBut.same_on {l w : List Part} {s t : State} (h : unchangedBut w s t)
    (hw : ∀ p ∈ l, p ∉ w) : ∀ p ∈ l, p.same s t := fun p hp => h p (hw p hp)

/-- An action that writes none of the parts a predicate looks at keeps it. -/
theorem DependsOn.keep {l w : List Part} {P : State → Prop} (d : DependsOn l P) {s t : State}
    (h : unchangedBut w s t) (hw : ∀ p ∈ l, p ∉ w) : P s → P t := d s t (h.same_on hw)

theorem DependsOn.mono {l l' : List Part} {P : State → Prop} (d : DependsOn l P)
    (hl : ∀ p ∈ l, p ∈ l') : DependsOn l' P := fun s t h => d s t fun p hp => h p (hl p hp)

theorem readout_unchanged (s : State) (ws : List Word) :
    unchangedBut [.readout] s { s with readout := ws } := by
  intro p hp
  cases p with
  | readout => exact absurd (by decide) hp
  | scfL | scfS | samp => exact sameReads_refl _
  | ibuf | mdbuf | plain | code | obuf => exact sameBytes_refl _
  | _ => rfl

theorem host_unchanged (s : State) (ops : List HostOp) :
    unchangedBut [.host] s { s with host := ops } := by
  intro p hp
  cases p with
  | host => exact absurd (by decide) hp
  | scfL | scfS | samp => exact sameReads_refl _
  | ibuf | mdbuf | plain | code | obuf => exact sameBytes_refl _
  | _ => rfl

/-- Everything a register write can do: `CFG_NREG` clamped (10_state.md R28), `FOFF` with the valid bits
cleared (R31), or one of the registers that no command's rule rests on, or nothing. -/
theorem regWrite_cases (n : Nat) (v : Word) (s : State) :
    s.regWrite n v = { s with cfgNreg := clampNreg v } ∨
      s.regWrite n v = clearValid { s with foff := v.setWidth 28 } ∨
      unchangedBut [.cfgModel, .startOff, .cur, .idx, .p2start] s (s.regWrite n v) := by
  unfold State.regWrite
  split
  case h_2 => exact .inl rfl
  case h_4 => exact .inr (.inl rfl)
  all_goals
    refine .inr (.inr fun p hp => ?_)
    cases p with
    | cfgModel | startOff | cur | idx | p2start => exact absurd (by decide) hp
    | scfL | scfS | samp => exact sameReads_refl _
    | ibuf | mdbuf | plain | code | obuf => exact sameBytes_refl _
    | _ => rfl

/-- A register write raises nothing and clears nothing (10_state.md R21). -/
theorem regWrite_err (n : Nat) (v : Word) (s : State) : (s.regWrite n v).err = s.err := by
  unfold State.regWrite
  split <;> rfl

theorem regWrite_lastErr (n : Nat) (v : Word) (s : State) : (s.regWrite n v).lastErr = s.lastErr := by
  unfold State.regWrite
  split <;> rfl

/-- Everything a load by the host can do: `IBUF` replaced with the valid bits cleared, or `PLAIN` or `CODE`
replaced (20_memory.md R81). -/
theorem bufLoad_cases {b : BufId} (bytes : List Byte) (s : State) (hm : b ≠ .mdbuf) (ho : b ≠ .obuf) :
    s.bufLoad b bytes = clearValid { s with ibuf := Buffer.ofBytes bytes } ∨
      unchangedBut [.plain, .code] s (s.bufLoad b bytes) := by
  cases b with
  | ibuf => exact .inl rfl
  | mdbuf => exact absurd rfl hm
  | plain => exact .inr (unchangedBut_mono (setBuf_unchanged_plain s _) (by decide))
  | code => exact .inr (unchangedBut_mono (setBuf_unchanged_code s _) (by decide))
  | obuf => exact absurd rfl ho

/-! ## Predicates about the frame at `FOFF` and the registers that describe it -/

/-- The parts that say where the current frame is and what it is, with the history, the scale factors of the
short layout and the number of regions: most commands write none of them. -/
def Part.framing : List Part :=
  [.hValid, .siValid, .foff, .cfg, .cfgNreg, .hdr, .ring, .mdb, .siPrivate, .scfsi, .si, .scfS, .ibuf]

/-- What is left to show of a predicate about the framing parts: the actions that write one of them. -/
structure KeptByFraming (P : State → Prop) : Prop where
  looksAt : DependsOn Part.framing P
  sinit : ∀ s, P s → P (sinitBody s)
  hdr : ∀ s, P s → P (hdrBody s)
  side : ∀ s, P s → P (sideBody s)
  scf : ∀ gr ch s, P s → P (scfBody gr ch s)
  adv : ∀ s, P s → P (advBody s)
  specEnd : ∀ gr ch stop s, s.idx.toNat ≤ 576 → P s → P (specEnd gr ch stop s)
  zero : ∀ s, P s → P (zeroGranules s)
  skipByte : ∀ s, s.hValid = false → s.siValid = false → P s → P (skipByte s)
  skipFrame : ∀ s, s.siValid = false → P s → P (skipFrame s)
  srst : ∀ s, P s → P (srstBody s)
  regWrite : ∀ n v s, P s → P (s.regWrite n v)
  bufLoad : ∀ b bytes s, b ≠ .mdbuf → b ≠ .obuf → P s → P (s.bufLoad b bytes)

/-- Every other action leaves the framing parts alone, so every step keeps such a predicate. -/
theorem KeptByFraming.keptByStep {P : State → Prop} (K : KeptByFraming P) : KeptByStep P where
  raise c n s := K.looksAt.keep (raise_unchanged c n s) (by decide)
  sinit := K.sinit
  hdr := K.hdr
  side s _ _ := K.side s
  resv s _ := K.looksAt.keep (resvBody_unchanged s) (by decide)
  scf gr ch s _ := K.scf gr ch s
  adv := K.adv
  pair gr ch t s _ := K.looksAt.keep (pairBody_unchanged gr ch t s) (by decide)
  quad gr ch sel s _ := K.looksAt.keep (quadBody_unchanged gr ch sel s) (by decide)
  specStart gr ch s := K.looksAt.keep (specStart_unchanged gr ch s) (by decide)
  specEnd := K.specEnd
  acinit d s := match d with
    | .encode => K.looksAt.keep (acinitBody_unchanged_encode s) (by decide)
    | .decode => K.looksAt.keep (acinitBody_unchanged_decode s) (by decide)
  enc y s _ := K.looksAt.keep (encBody_unchanged y s) (by decide)
  dec s _ := K.looksAt.keep (decBody_unchanged s) (by decide)
  flush s _ := K.looksAt.keep (flushBody_unchanged s) (by decide)
  idle s := K.looksAt.keep (acMode_unchanged s _) (by decide)
  appendPlain _ s := K.looksAt.keep (setBuf_unchanged_plain s _) (by decide)
  clearPlain s := K.looksAt.keep (setBuf_unchanged_plain s _) (by decide)
  appendObuf _ s := K.looksAt.keep (setBuf_unchanged_obuf s _) (by decide)
  countFrame s := K.looksAt.keep (frames_unchanged s _) (by decide)
  zero := K.zero
  skipByte := K.skipByte
  skipFrame := K.skipFrame
  done s := K.looksAt.keep (done_unchanged s) (by decide)
  accept s := K.looksAt.keep (accept_unchanged s) (by decide)
  clearErrors s := K.looksAt.keep (clearErrors_unchanged s) (by decide)
  srst := K.srst
  rdbits b adv n s := K.looksAt.keep (rdbitsBody_unchanged b adv n s) (by cases adv <;> decide)
  regWrite := K.regWrite
  bufLoad := K.bufLoad
  readout ws s := K.looksAt.keep (readout_unchanged s ws) (by decide)
  host ops s := K.looksAt.keep (host_unchanged s ops) (by decide)

/-! ## The registers of the frame at `FOFF` (10_state.md R24) -/

/-- Bits are read from bytes only. -/
theorem sameBytes.bits {b b' : Buffer} (h : sameBytes b b') : b'.bits = b.bits := by
  have hread : b'.read = b.read := funext h.2
  funext off n
  induction n with
  | zero => rfl
  | succ n ih => rw [Buffer.bits_succ, Buffer.bits_succ, ih, Buffer.bit, Buffer.bit, hread]

theorem sameBytes.bit {b b' : Buffer} (h : sameBytes b b') : b'.bit = b.bit := by
  funext i
  rw [Buffer.bit, Buffer.bit, h.2]

/-- The block `SIDE` reads from two buffers of the same bytes, whatever `NZC` it keeps (R190). -/
theorem sideBlockOf_congr {b b' : Buffer} (h : sameBytes b b') (pos n : Nat) (gr ch : Fin 2)
    (g : SideBlock) (z : BitVec 10) :
    sideBlockOf b' pos n gr ch { g with nzc := z } = { sideBlockOf b pos n gr ch g with nzc := z } := by
  unfold sideBlockOf sideBlock siField
  rw [h.bits, h.bit]
  split <;> rfl

/-- The registers a valid bit speaks of, and where they are read from. -/
def Part.description : List Part :=
  [.hValid, .siValid, .foff, .cfg, .hdr, .mdb, .siPrivate, .scfsi, .ibuf]

/-- The description stays true when the registers and the bytes they are read from stay, whatever happens to
`NZC`, which `SIDE` does not read (10_state.md R40). -/
theorem State.DescribesFrame.of_same {s t : State} (h : ∀ p ∈ Part.description, p.same s t)
    (hsi : ∀ gr ch, ∃ z, t.si.get gr ch = { s.si.get gr ch with nzc := z }) (hs : s.DescribesFrame) :
    t.DescribesFrame := by
  have hibuf : sameBytes s.ibuf t.ibuf := h .ibuf (by decide)
  have hhdr : t.hdr = s.hdr := h .hdr (by decide)
  have hfoff : t.foff = s.foff := h .foff (by decide)
  have hword : t.headerWord = s.headerWord := by
    unfold State.headerWord; rw [hibuf.bits, hfoff]
  have hpos : t.sidePos = s.sidePos := by unfold State.sidePos; rw [hfoff, hhdr]
  have hchan : t.channels = s.channels := by unfold State.channels; rw [hhdr]
  refine ⟨fun hv => ?_, fun hv => ?_⟩
  · have hv : s.hValid = true := (h .hValid (by decide)).symm.trans hv
    have hcfg : t.cfg = s.cfg := h .cfg (by decide)
    rw [hword, hhdr, hcfg]
    exact hs.header hv
  · have hv : s.siValid = true := (h .siValid (by decide)).symm.trans hv
    obtain ⟨hmdb, hscfsi, hpriv, hblocks⟩ := hs.side hv
    rw [hpos, hchan]
    refine ⟨?_, ?_, ?_, fun gr ch => ?_⟩
    · rw [show t.mdb = s.mdb from h .mdb (by decide), hmdb, siField, siField, hibuf.bits]
    · rw [show t.scfsi = s.scfsi from h .scfsi (by decide), hscfsi, readScfsi, readScfsi, hibuf.bit]
    · rw [show t.siPrivate = s.siPrivate from h .siPrivate (by decide), hpriv, hibuf.bits]
    · obtain ⟨z, hz⟩ := hsi gr ch
      rw [hz, sideBlockOf_congr hibuf, ← hblocks gr ch]

theorem describesFrame_looksAt : DependsOn (.si :: Part.description) State.DescribesFrame := fun s t h =>
  State.DescribesFrame.of_same (fun p hp => h p (List.mem_cons_of_mem _ hp))
    fun gr ch => ⟨(s.si.get gr ch).nzc, by rw [show t.si = s.si from h .si (by decide)]⟩

/-- With both valid bits 0 nothing is claimed. -/
theorem describesFrame_of_invalid {s : State} (hh : s.hValid = false) (hs : s.siValid = false) :
    s.DescribesFrame where
  header h := absurd h (by simp [hh])
  side h := absurd h (by simp [hs])

/-- `HDR` leaves no valid bit or a header parsed from the word at `FOFF` (41_frame_parser.md R182). -/
theorem hdrBody_describesFrame (s : State) : (hdrBody s).DescribesFrame := by
  refine ⟨fun hv => ?_, fun hv => absurd hv (by simp [hdrBody_siValid])⟩
  unfold hdrBody at hv ⊢
  simp only at hv ⊢
  split at hv
  · simp at hv
  · rename_i hok
    rw [if_neg hok]
    have hword : ∀ (m : Option Nat) (h : Header) (b : Bool),
        State.headerWord { noteMissing m (clearValid s) with hdr := h, hValid := b } = s.headerWord := by
      intro m h b
      simp [State.headerWord]
    rw [hword]
    exact ⟨by simpa using hok, by simp⟩

/-- The block `SIDE` stores for a granule and channel (41_frame_parser.md R190). -/
theorem sideBody_block (s : State) (gr ch : Fin 2) :
    (sideBody s).si.get gr ch = sideBlockOf s.ibuf s.sidePos s.channels gr ch (s.si.get gr ch) := by
  simp only [sideBody, noteMissing_si]
  fin_cases gr <;> fin_cases ch <;> rfl

/-- What `SIDE` stores is the side information at `FOFF` (41_frame_parser.md R190). -/
theorem sideBody_describesFrame {s : State} (hs : s.DescribesFrame) : (sideBody s).DescribesFrame := by
  have hpos : (sideBody s).sidePos = s.sidePos := by simp [sideBody, State.sidePos]
  have hchan : (sideBody s).channels = s.channels := by simp [sideBody, State.channels]
  have hibuf : (sideBody s).ibuf = s.ibuf := by simp [sideBody]
  refine ⟨fun hv => ?_, fun _ => ?_⟩
  · have hword : (sideBody s).headerWord = s.headerWord := by simp [sideBody, State.headerWord]
    rw [hword]
    have := hs.header (by simpa [sideBody] using hv)
    simpa [sideBody] using this
  · rw [hpos, hchan, hibuf]
    refine ⟨by simp [sideBody], by simp [sideBody], by simp [sideBody], fun gr ch => ?_⟩
    rw [sideBody_block]
    unfold sideBlockOf
    split <;> rfl

/-- The valid bits are kept true to the frame by every action that moves `FOFF`, replaces `IBUF` or writes a
register of the frame: it clears the bits or reads the registers anew (10_state.md R24). -/
theorem describesFrame_keptByFraming : KeptByFraming State.DescribesFrame where
  looksAt := describesFrame_looksAt.mono (by decide)
  sinit _ _ := describesFrame_of_invalid rfl rfl
  hdr s _ := hdrBody_describesFrame s
  side _ h := sideBody_describesFrame h
  scf gr ch s := describesFrame_looksAt.keep (scfBody_unchanged gr ch s) (by decide)
  adv _ _ := describesFrame_of_invalid rfl rfl
  specEnd gr ch stop s _ h := by
    refine h.of_same ((specEnd_unchanged gr ch stop s).same_on (by decide)) fun gr' ch' => ?_
    by_cases hsame : gr' = gr ∧ ch' = ch
    · obtain ⟨rfl, rfl⟩ := hsame
      exact ⟨s.idx, SideBlocks.get_set_same _ _ _ _⟩
    · exact ⟨_, by rw [specEnd, SideBlocks.get_set, if_neg hsame]⟩
  zero s h := by
    refine h.of_same ((zeroGranules_unchanged s).same_on (by decide)) fun gr ch => ⟨0, ?_⟩
    fin_cases gr <;> fin_cases ch <;> rfl
  skipByte _ hh hs _ := describesFrame_of_invalid hh hs
  skipFrame _ hs _ := describesFrame_of_invalid rfl hs
  srst _ _ := describesFrame_of_invalid rfl rfl
  regWrite n v s h := by
    rcases regWrite_cases n v s with he | he | he
    · rw [he]
      exact ⟨h.header, h.side⟩
    · rw [he]
      exact describesFrame_of_invalid rfl rfl
    · exact describesFrame_looksAt.keep he (by decide) h
  bufLoad b bytes s hm ho h := by
    rcases bufLoad_cases bytes s hm ho with he | he
    · rw [he]
      exact describesFrame_of_invalid rfl rfl
    · exact describesFrame_looksAt.keep he (by decide) h

/-- Settles O57: the description alone is kept by every elementary action, so by every step. -/
theorem stepKeepsFrameDescription : Obligations.StepKeepsFrameDescription :=
  fun s t _ hs => describesFrame_keptByFraming.keptByStep.step s t hs

end Sys2Proof.Machine

/-! ## The error registers (10_state.md R25, R26; 60_exceptions.md R351)

Inside a command `raise` is the only writer of `ERR` and `LASTERR`, so a predicate about these two is kept by
every body as soon as a raise keeps it. -/

namespace Sys2Proof.Machine

/-- A predicate about `ERR` and `LASTERR`. -/
def OnErrors (Q : BitVec 13 → BitVec 4 → Prop) (s : State) : Prop := Q s.err s.lastErr

section OnErrors

variable {Q : BitVec 13 → BitVec 4 → Prop} (hr : ∀ c n s, OnErrors Q s → OnErrors Q (raise c n s))

include hr

theorem OnErrors.noteMissing (m : Option Nat) (s : State) (h : OnErrors Q s) :
    OnErrors Q (noteMissing m s) := by
  cases m with
  | none => exact h
  | some n => exact hr _ n s h

theorem OnErrors.hdrBody (s : State) (h : OnErrors Q s) : OnErrors Q (hdrBody s) := by
  have hnote := OnErrors.noteMissing hr (s.ibuf.missing (8 * s.foff.toNat) 32) (clearValid s) h
  unfold Machine.hdrBody
  simp only
  split
  · exact hr _ _ _ hnote
  · exact hnote

theorem OnErrors.resvBody (s : State) (h : OnErrors Q s) : OnErrors Q (resvBody s) := by
  have hcopies : ∀ b parts u, OnErrors Q u → OnErrors Q (noteCopies b parts u) := by
    intro b parts
    induction parts with
    | nil => exact fun _ hu => hu
    | cons r parts ih => exact fun u hu => ih _ (OnErrors.noteMissing hr _ u hu)
  have hnote := OnErrors.noteMissing hr
    (copyMissing s.ibuf (s.foff.toNat + s.prefixLen) (s.foff.toNat + s.hdr.frameSize.toNat)) s h
  unfold Machine.resvBody
  simp only
  split
  · exact hnote
  · split
    · exact hr .reservoirInconsistency s.foff.toNat _ hnote
    · exact hcopies _ _ _ hnote

theorem OnErrors.storeWord (gr ch : Fin 2) (vs : Option (List Int)) (c : Cursor) (s : State)
    (h : OnErrors Q s) : OnErrors Q (storeWord gr ch vs c s).1 := by
  cases vs with
  | none => exact hr _ _ _ (OnErrors.noteMissing hr _ s h)
  | some vs => exact OnErrors.noteMissing hr c.miss { s with samp := _, idx := _, cur := _ } h

theorem OnErrors.appendAll (b : BufId) (vs : List Byte) (s : State) (h : OnErrors Q s) :
    OnErrors Q (appendAll b vs s).state :=
  appendAll_keeps b vs s h (hr .capacityFault) fun v s hs => by
    rw [OnErrors, setBuf_err, setBuf_lastErr]; exact hs

theorem OnErrors.renormEnc (n : Nat) (s : State) (h : OnErrors Q s) :
    OnErrors Q (renormEnc n s).state := by
  induction n generalizing s with
  | zero => exact h
  | succ n ih =>
    unfold Machine.renormEnc
    split
    · exact Flow.state_bind (P := OnErrors Q)
        (append_keeps .code _ s h (hr .capacityFault) fun _ hs => hs) (fun _ hs => hs)
        (fun u hu => ih { u with ac := u.ac.shift } hu)
    · exact h

/-- What a raise keeps of the error registers, every body keeps. -/
theorem kept_onErrors : Kept (OnErrors Q) where
  raise := hr
  sinit _ h := h
  hdr := OnErrors.hdrBody hr
  side _ _ _ h := OnErrors.noteMissing hr _ _ h
  resv s _ := OnErrors.resvBody hr s
  scf _ _ _ _ h := OnErrors.noteMissing hr _ _ h
  adv _ h := h
  pair gr ch _ s _ := OnErrors.storeWord hr gr ch _ _ s
  quad gr ch _ s _ := OnErrors.storeWord hr gr ch _ _ s
  specStart _ _ _ h := h
  specEnd _ _ _ _ _ h := h
  acinit d _ h := by cases d <;> exact h
  enc y s _ h := OnErrors.renormEnc hr 4 { s with ac := s.ac.advance s.region y } h
  dec _ _ h := h
  flush s _ h := Flow.state_bind (P := OnErrors Q) (OnErrors.appendAll hr .code _ s h) (fun _ hs => hs)
    (fun _ hs => hs)
  idle _ h := h
  appendPlain _ _ h := h
  clearPlain _ h := h
  appendObuf _ _ h := h
  countFrame _ h := h
  zero _ h := h
  skipByte _ _ _ h := h
  skipFrame s _ h := hr .unsupportedFrame s.foff.toNat s h
  done _ h := h

end OnErrors

/-- A command other than `SRST` and `CLRERR` keeps what its parts keep, from its acceptance on (30_encoding.md
R110). Unlike `KeptByStep.exec` it serves predicates that acceptance or those two commands break. -/
theorem Kept.exec_of_accept {P : State → Prop} (K : Kept P)
    (hrdbits : ∀ b adv n s, P s → P (rdbitsBody b adv n s)) {i : Instr} {s t : State} (h : P (accept s))
    (he : exec i s = .next t) (hsrst : i ≠ .srst) (hclrerr : i ≠ .clrerr) : P t := by
  cases i with
  | nop => cases he; exact h
  | srst => exact absurd rfl hsrst
  | clrerr => exact absurd rfl hclrerr
  | sinit => cases he; exact K.sinit _ h
  | rdbits b adv n =>
    change execRdbits b adv n s = .next t at he
    unfold execRdbits at he
    split at he
    · cases he; exact hrdbits b adv n _ h
    · cases he; exact K.raise _ _ _ h
  | hdr => cases he; exact K.hdr _ h
  | side =>
    refine K.guarded (i := .side) (pre := sidePre) (body := sideBody) h he fun hp => ?_
    obtain ⟨hvalid, hsupp⟩ := Bool.and_eq_true_iff.mp hp
    exact K.side _ hvalid hsupp
  | resv => exact K.guarded (i := .resv) (pre := (·.siValid)) (body := resvBody) h he fun hp => K.resv _ hp
  | scf gr ch =>
    exact K.guarded (i := .scf gr ch) (pre := granulePre ch) (body := scfBody gr ch) h he fun hp =>
      K.scf gr ch _ (Bool.and_eq_true_iff.mp hp).1
  | adv => exact K.guarded (i := .adv) (pre := (·.hValid)) (body := advBody) h he fun _ => K.adv _
  | hufpair gr ch tbl =>
    exact K.guarded (i := .hufpair gr ch tbl) (pre := pairPre ch)
      (body := fun s => (pairBody gr ch tbl.val s).1) h he fun hp =>
        K.pair gr ch tbl.val _ (of_decide_eq_true (Bool.and_eq_true_iff.mp hp).2)
  | hufquad gr ch sel =>
    exact K.guarded (i := .hufquad gr ch sel) (pre := quadPre ch)
      (body := fun s => (quadBody gr ch sel s).1) h he fun hp =>
        K.quad gr ch sel _ (of_decide_eq_true (Bool.and_eq_true_iff.mp hp).2)
  | spec gr ch =>
    exact K.guarded (i := .spec gr ch) (pre := granulePre ch) (body := fun s => (specBody gr ch s).1) h he
      fun _ => K.spec gr ch _
  | acinit dir => cases he; exact K.acinit dir _ h
  | acencb y =>
    exact K.guarded (i := .acencb y) (pre := fun s => s.acMode == .encoding)
      (body := fun s => (encBody y s).state) h he fun hp => K.enc y _ (eq_of_beq hp)
  | acdecb =>
    exact K.guarded (i := .acdecb) (pre := fun s => s.acMode == .decoding)
      (body := fun s => (decBody s).1) h he fun hp => K.dec _ (eq_of_beq hp)
  | acflush =>
    exact K.guarded (i := .acflush) (pre := fun s => s.acMode == .encoding)
      (body := fun s => (flushBody s).state) h he fun hp => K.flush _ (eq_of_beq hp)
  | acenc => cases he; exact K.acenc _ h
  | acdec => exact K.acdecLoop _ _ t rfl (K.acinit .decode _ h) he
  | ser =>
    exact K.guarded (i := .ser) (pre := (·.hValid)) (body := fun s => (serBody s).state) h he
      fun _ => K.ser _
  | emit =>
    exact K.guarded (i := .emit) (pre := emitPre) (body := fun s => (emitBody s).state) h he
      fun _ => K.emit _
  | frame => cases he; exact K.frame _ h
  | run => exact K.run _ t h he

/-- What a raise keeps of the error registers holds after a command if it holds at its acceptance. -/
theorem exec_onErrors {Q : BitVec 13 → BitVec 4 → Prop}
    (hr : ∀ c n s, OnErrors Q s → OnErrors Q (raise c n s)) {i : Instr} {s t : State}
    (h : OnErrors Q (accept s)) (he : exec i s = .next t) (hsrst : i ≠ .srst) (hclrerr : i ≠ .clrerr) :
    OnErrors Q t :=
  (kept_onErrors hr).exec_of_accept (fun _ _ _ _ hs => OnErrors.noteMissing hr _ _ hs) h he hsrst hclrerr

/-- Settles O11: `LASTERR` is 0 at acceptance, and a raise leaves it other than 0. -/
theorem lastErrZeroMeansNothingRaised : Obligations.LastErrZeroMeansNothingRaised := by
  intro i s t he hsrst hclrerr
  exact exec_onErrors (Q := fun err lastErr => lastErr = 0 → err = s.err)
    (fun c n u _ h0 => absurd h0 (raise_lastErr_ne_zero c n u)) (fun _ => rfl) he hsrst hclrerr

/-- A set bit of `ERR` stays set through every command but the two that clear it (R25). -/
theorem exec_err_sticky {i : Instr} {s t : State} {k : Nat} (he : exec i s = .next t) (hsrst : i ≠ .srst)
    (hclrerr : i ≠ .clrerr) (hk : s.err.getLsbD k = true) : t.err.getLsbD k = true :=
  exec_onErrors (Q := fun err _ => err.getLsbD k = true)
    (fun c _ u hu => setErrBit_sticky u.err c k hu) hk he hsrst hclrerr

/-! ## The words of the commands that clear `ERR` -/

theorem lowField_ok {n a : Nat} {i j : Instr} (h : lowField n a i = .ok j) : a < 2 ^ n ∧ i = j := by
  unfold lowField at h
  split at h
  · exact ⟨‹_›, Except.ok.inj h⟩
  · cases h

theorem decodeRdbits_ok {a : Nat} {i : Instr} (h : decodeRdbits a = .ok i) :
    ∃ b adv len, i = .rdbits b adv len := by
  unfold decodeRdbits at h
  split at h
  · cases h
  · split at h
    · cases h
    · split at h
      · exact ⟨_, _, _, (Except.ok.inj h).symm⟩
      · cases h

/-- Only opcode 0x01 with all operand bits 0 decodes to `SRST`, only 0x02 with them 0 to `CLRERR`
(30_encoding.md R112). -/
theorem decodeOp_clearing {op a : Nat} {i : Instr} (h : decodeOp op a = .ok i) :
    (i = .srst → op = 1 ∧ a = 0) ∧ (i = .clrerr → op = 2 ∧ a = 0) := by
  unfold decodeOp at h
  split at h
  case h_2 =>
    obtain ⟨ha, rfl⟩ := lowField_ok h
    exact ⟨fun _ => ⟨rfl, Nat.lt_one_iff.mp ha⟩, nofun⟩
  case h_3 =>
    obtain ⟨ha, rfl⟩ := lowField_ok h
    exact ⟨nofun, fun _ => ⟨rfl, Nat.lt_one_iff.mp ha⟩⟩
  case h_5 =>
    obtain ⟨b, adv, len, rfl⟩ := decodeRdbits_ok h
    exact ⟨nofun, nofun⟩
  case h_24 => cases h
  all_goals
    obtain rfl := (lowField_ok h).2
    exact ⟨nofun, nofun⟩

theorem decode_srst {w : Word} (h : decode w = .ok .srst) : w = 0x01000000 := by
  obtain ⟨hop, ha⟩ := (decodeOp_clearing h).1 rfl
  apply BitVec.eq_of_toNat_eq
  rw [show (0x01000000 : Word).toNat = 1 * 2 ^ 24 from rfl]
  omega

theorem decode_clrerr {w : Word} (h : decode w = .ok .clrerr) : w = 0x02000000 := by
  obtain ⟨hop, ha⟩ := (decodeOp_clearing h).2 rfl
  apply BitVec.eq_of_toNat_eq
  rw [show (0x02000000 : Word).toNat = 2 * 2 ^ 24 from rfl]
  omega

/-! ## What a step does -/

/-- A step takes the host's oldest pending action. -/
theorem step_of_host {s : State} {op : HostOp} {rest : List HostOp} (h : s.host = op :: rest) :
    step s = perform op { s with host := rest } := by
  unfold step takeAction
  rw [h]

theorem step_of_idle {s : State} (h : s.host = []) : step s = .next s := by
  unfold step takeAction
  rw [h]

theorem hostLoad_next {b : BufId} {bytes : List Byte} {s t : State} (h : hostLoad b bytes s = .next t) :
    t = s.bufLoad b bytes := by
  unfold hostLoad at h
  split at h
  · exact (Host.Outcome.next.inj h).symm
  · cases h

/-- Everything an action of the host can do to `ERR`: nothing, unless it writes a word to `CMD`. -/
theorem perform_err_cases {op : HostOp} {s t : State} (h : perform op s = .next t) :
    t.err = s.err ∨ ∃ w, op = .regWrite 0 w ∧ issue w s = .next t := by
  have load : ∀ b bytes, (s.bufLoad b bytes).err = s.err := by
    intro b bytes
    cases b <;> rfl
  cases op with
  | regWrite n v =>
    change hostWrite n v s = .next t at h
    unfold hostWrite at h
    split at h
    · rename_i hn
      exact .inr ⟨v, by rw [hn]; rfl, h⟩
    · cases h
      exact .inl (regWrite_err n v s)
  | loadIbuf bytes | loadPlain bytes | loadCode bytes =>
    rw [hostLoad_next h]
    exact .inl (load _ bytes)
  | regRead _ | bufRead _ _ _ | sampRead _ _ _ | scfLRead _ _ _ | scfSRead _ _ _ _ | cntRead _ _ _ =>
    cases h
    exact .inl rfl

/-- Settles O10: only a command writes `ERR`, and the two that clear it have one word each. -/
theorem errBitsAreSticky : Obligations.ErrBitsAreSticky := by
  intro s t k hstep hk hclear
  cases hhost : s.host with
  | nil =>
    rw [step_of_idle hhost] at hstep
    cases hstep
    exact hk
  | cons op rest =>
    rw [step_of_host hhost] at hstep
    rcases perform_err_cases hstep with herr | ⟨w, rfl, hissue⟩
    · rw [herr]
      exact hk
    · obtain ⟨hsrst, hclrerr⟩ := hclear rest
      unfold issue at hissue
      split at hissue
      · rename_i i hi
        refine exec_err_sticky hissue ?_ ?_ hk
        · rintro rfl
          exact hsrst (by rw [hhost, decode_srst hi])
        · rintro rfl
          exact hclrerr (by rw [hhost, decode_clrerr hi])
      · cases hissue
        exact setErrBit_sticky s.err .illegalCommand k hk

end Sys2Proof.Machine

/-! ## Registers in their legal values (10_state.md R25, R28, R38, R40, R42) -/

namespace Sys2Proof.Machine

/-- The error registers are legal: `ERR` bit 0 is 0 and `LASTERR` a condition code (R25, 60_exceptions.md
R352). -/
def legalErrors (err : BitVec 13) (lastErr : BitVec 4) : Prop :=
  err.getLsbD 0 = false ∧ lastErr.toNat ≤ 12

theorem raise_legalErrors (c : Cond) (n : Nat) (s : State) (h : OnErrors legalErrors s) :
    OnErrors legalErrors (raise c n s) :=
  ⟨(setErrBit_zero s.err c).trans h.1, raise_lastErr_le c n s h.2⟩

theorem legalErrors_keptByStep : KeptByStep (OnErrors legalErrors) where
  toKept := kept_onErrors raise_legalErrors
  accept _ h := ⟨h.1, Nat.zero_le _⟩
  clearErrors _ h := ⟨BitVec.getLsbD_zero, h.2⟩
  srst _ _ := ⟨BitVec.getLsbD_zero, Nat.zero_le _⟩
  rdbits _ _ _ _ h := OnErrors.noteMissing raise_legalErrors _ _ h
  regWrite n v s h := by
    rw [OnErrors, regWrite_err, regWrite_lastErr]
    exact h
  bufLoad b _ _ _ _ h := by cases b <;> exact h
  readout _ _ h := h
  host _ _ h := h

/-- The legal values that the framing parts hold. -/
structure State.FramingLegal (s : State) : Prop where
  nreg : 1 ≤ s.cfgNreg.toNat ∧ s.cfgNreg.toNat ≤ 32
  ring : s.ring.length ≤ 9
  nzc : ∀ gr ch, (s.si.get gr ch).nzc.toNat ≤ 576
  scf12 : ∀ gr ch win, win < 3 → Memory.read s.scfS (scfSAddr gr ch win 12) = 0

theorem regsLegal_iff (s : State) : s.RegsLegal ↔ OnErrors legalErrors s ∧ s.FramingLegal :=
  ⟨fun h => ⟨⟨h.err0, h.lastErr⟩, ⟨h.nreg, h.ring, h.nzc, h.scf12⟩⟩,
    fun ⟨⟨herr0, hlast⟩, h⟩ => ⟨h.nreg, herr0, hlast, h.ring, h.nzc, h.scf12⟩⟩

theorem framingLegal_looksAt : DependsOn [.cfgNreg, .ring, .si, .scfS] State.FramingLegal := by
  intro s t hsame h
  have hnreg : t.cfgNreg = s.cfgNreg := hsame .cfgNreg (by decide)
  have hring : t.ring = s.ring := hsame .ring (by decide)
  have hsi : t.si = s.si := hsame .si (by decide)
  have hscfS : sameReads s.scfS t.scfS := hsame .scfS (by decide)
  exact ⟨hnreg ▸ h.nreg, hring ▸ h.ring, hsi ▸ h.nzc,
    fun gr ch win hwin => (hscfS _).trans (h.scf12 gr ch win hwin)⟩

/-! ### The entries `SCF` writes -/

/-- The values read go where the slots say, in their order (41_frame_parser.md R206). -/
theorem readSlots_dest (b : Buffer) (slots : List ScfSlot) (c : Cursor) :
    (readSlots b slots c).1.map Prod.fst = slots.map ScfSlot.dest := by
  induction slots generalizing c with
  | nil => rfl
  | cons slot rest ih => simp only [readSlots, List.map_cons, ih]

theorem mem_shortSlots {lo hi width : Nat} {slot : ScfSlot} (h : slot ∈ shortSlots lo hi width) :
    ∃ win sfb, slot.dest = .short win sfb ∧ win < 3 ∧ lo ≤ sfb ∧ sfb < hi := by
  simp only [shortSlots, List.mem_flatMap, List.mem_map, List.mem_range] at h
  obtain ⟨k, hk, win, hwin, rfl⟩ := h
  exact ⟨win, lo + k, rfl, hwin, by omega, by omega⟩

/-- No layout has an entry for short band 12 (R206 to R209). -/
theorem scfSlots_short {s : State} {gr ch : Fin 2} {slot : ScfSlot} {win sfb : Nat}
    (h : slot ∈ scfSlots s gr ch) (hd : slot.dest = .short win sfb) : win < 3 ∧ sfb < 12 := by
  have short : ∀ {lo hi width}, hi ≤ 12 → slot ∈ shortSlots lo hi width → win < 3 ∧ sfb < 12 := by
    intro lo hi width hhi hmem
    obtain ⟨win', sfb', hd', hwin, _, hsfb⟩ := mem_shortSlots hmem
    obtain ⟨rfl, rfl⟩ := ScfDest.short.inj (hd.symm.trans hd')
    exact ⟨hwin, by omega⟩
  unfold scfSlots at h
  simp only at h
  split at h
  · split at h
    · rcases List.mem_append.mp h with h | h
      · rcases List.mem_append.mp h with h | h
        · obtain ⟨k, _, rfl⟩ := List.mem_map.mp h
          cases hd
        · exact short (by decide) h
      · exact short (by decide) h
    · rcases List.mem_append.mp h with h | h <;> exact short (by decide) h
  · obtain ⟨k, _, rfl⟩ := List.mem_map.mp h
    cases hd

/-- Every write to the short image is an entry of `SCF_S[gr][ch]` below band 12. -/
theorem mem_shortWrites {s : State} {gr ch : Fin 2} {c : Cursor} {kv : Nat × BitVec 4}
    (h : kv ∈ shortWrites gr ch (readSlots s.mdbuf (scfSlots s gr ch) c).1) :
    ∃ win sfb, kv.1 = scfSAddr gr ch win sfb ∧ win < 3 ∧ sfb < 12 := by
  obtain ⟨⟨dest, v⟩, hmem, hkv⟩ := List.mem_filterMap.mp h
  cases dest with
  | long sfb => cases hkv
  | short win sfb =>
    cases hkv
    have hdest : ScfDest.short win sfb ∈ (scfSlots s gr ch).map ScfSlot.dest := by
      rw [← readSlots_dest s.mdbuf _ c]
      exact List.mem_map_of_mem hmem
    obtain ⟨slot, hslot, hd⟩ := List.mem_map.mp hdest
    obtain ⟨hwin, hsfb⟩ := scfSlots_short hslot hd
    exact ⟨win, sfb, rfl, hwin, hsfb⟩

/-- `SCF` leaves 0 in the entries of band 12 that held 0 (10_state.md R42). -/
theorem scfBody_scf12 (gr ch : Fin 2) {s : State} (gr' ch' : Fin 2) (win : Nat)
    (h : Memory.read s.scfS (scfSAddr gr' ch' win 12) = 0) :
    Memory.read (scfBody gr ch s).scfS (scfSAddr gr' ch' win 12) = 0 := by
  simp only [scfBody, applyCursor_scfS]
  rw [Memory.read_writeAll_of_not_mem, Memory.read_clear, h, ite_self]
  intro kv hkv
  obtain ⟨win', sfb, haddr, _, hsfb⟩ := mem_shortWrites hkv
  rw [haddr]
  unfold scfSAddr scfSBase
  omega

/-! ### Every action keeps the legal values -/

theorem clampNreg_legal (v : Word) : 1 ≤ (clampNreg v).toNat ∧ (clampNreg v).toNat ≤ 32 := by
  unfold clampNreg
  split
  · decide
  · rename_i hzero
    split
    · decide
    · have : v.toNat ≠ 0 := fun h0 => hzero (BitVec.eq_of_toNat_eq h0)
      rw [BitVec.toNat_setWidth]
      omega

theorem sideBlockOf_nzc (b : Buffer) (pos n : Nat) (gr ch : Fin 2) (old : SideBlock) :
    (sideBlockOf b pos n gr ch old).nzc = old.nzc := by
  unfold sideBlockOf
  split <;> rfl

/-- With the number of regions, the history and the short scale factors as they were, only `NZC` is left to
look at. -/
theorem State.FramingLegal.of_nzc {s t : State} {w : List Part} (h : s.FramingLegal)
    (hsame : unchangedBut w s t) (hw : ∀ p ∈ [Part.cfgNreg, .ring, .scfS], p ∉ w)
    (hnzc : ∀ gr ch, (t.si.get gr ch).nzc.toNat ≤ 576) : t.FramingLegal := by
  have hsame := hsame.same_on hw
  have hnreg : t.cfgNreg = s.cfgNreg := hsame .cfgNreg (by decide)
  have hring : t.ring = s.ring := hsame .ring (by decide)
  have hscfS : sameReads s.scfS t.scfS := hsame .scfS (by decide)
  exact ⟨hnreg ▸ h.nreg, hring ▸ h.ring, hnzc,
    fun gr ch win hwin => (hscfS _).trans (h.scf12 gr ch win hwin)⟩

theorem framingLegal_keptByFraming : KeptByFraming State.FramingLegal where
  looksAt := framingLegal_looksAt.mono (by decide)
  sinit _ h := ⟨h.nreg, Nat.zero_le _, h.nzc, h.scf12⟩
  hdr s := framingLegal_looksAt.keep (hdrBody_unchanged s) (by decide)
  side s h := h.of_nzc (sideBody_unchanged s) (by decide) fun gr ch => by
    rw [sideBody_block, sideBlockOf_nzc]
    exact h.nzc gr ch
  scf gr ch s h := by
    have hsame := scfBody_unchanged gr ch s
    have hnreg : (scfBody gr ch s).cfgNreg = s.cfgNreg := hsame .cfgNreg (by decide)
    have hring : (scfBody gr ch s).ring = s.ring := hsame .ring (by decide)
    have hsi : (scfBody gr ch s).si = s.si := hsame .si (by decide)
    exact ⟨hnreg ▸ h.nreg, hring ▸ h.ring, hsi ▸ h.nzc,
      fun gr' ch' win hwin => scfBody_scf12 gr ch gr' ch' win (h.scf12 gr' ch' win hwin)⟩
  adv _ h := ⟨h.nreg, List.length_take_le _ _, h.nzc, h.scf12⟩
  specEnd gr ch stop s hidx h := h.of_nzc (specEnd_unchanged gr ch stop s) (by decide) fun gr' ch' => by
    rw [specEnd, SideBlocks.get_set]
    split
    · exact hidx
    · exact h.nzc gr' ch'
  zero s h := by
    refine ⟨h.nreg, h.ring, fun gr ch => ?_, fun _ _ _ _ => rfl⟩
    have hzero : ((zeroGranules s).si.get gr ch).nzc = 0 := by
      fin_cases gr <;> fin_cases ch <;> rfl
    rw [hzero]
    decide
  skipByte _ _ _ h := ⟨h.nreg, Nat.zero_le _, h.nzc, h.scf12⟩
  skipFrame _ _ h := ⟨h.nreg, Nat.zero_le _, h.nzc, h.scf12⟩
  srst _ h := ⟨h.nreg, Nat.zero_le _,
    (by decide : ∀ gr ch, (State.reset.si.get gr ch).nzc.toNat ≤ 576), fun _ _ _ _ => rfl⟩
  regWrite n v s h := by
    rcases regWrite_cases n v s with he | he | he
    · rw [he]
      exact ⟨clampNreg_legal v, h.ring, h.nzc, h.scf12⟩
    · rw [he]
      exact ⟨h.nreg, h.ring, h.nzc, h.scf12⟩
    · exact framingLegal_looksAt.keep he (by decide) h
  bufLoad b bytes s hm ho h := by
    rcases bufLoad_cases bytes s hm ho with he | he
    · rw [he]
      exact ⟨h.nreg, h.ring, h.nzc, h.scf12⟩
    · exact framingLegal_looksAt.keep he (by decide) h

/-- Settles O56: the error registers and the framing parts are kept legal separately. -/
theorem stepKeepsLegalRegisters : Obligations.StepKeepsLegalRegisters := by
  intro s t hs hstep
  obtain ⟨herr, hframing⟩ := (regsLegal_iff s).mp hs
  exact (regsLegal_iff t).mpr ⟨legalErrors_keptByStep.step s t herr hstep,
    framingLegal_keptByFraming.keptByStep.step s t hframing hstep⟩

end Sys2Proof.Machine

/-! ## The samples `SPEC` leaves (10_state.md R41, 42_spectrum_huffman.md R240) -/

namespace Sys2Proof.Machine

theorem mem_sampWrites {gr ch : Fin 2} {idx : Nat} {vs : List Int} {kv : Nat × BitVec 16}
    (h : kv ∈ sampWrites gr ch idx vs) : ∃ i < vs.length, kv.1 = sampAddr gr ch (idx + i) := by
  obtain ⟨⟨v, i⟩, hmem, rfl⟩ := List.mem_map.mp h
  exact ⟨i, by simpa using List.snd_lt_of_mem_zipIdx hmem, rfl⟩

theorem sampAddr_inj {gr ch : Fin 2} {i j : Nat} : sampAddr gr ch i = sampAddr gr ch j ↔ i = j := by
  unfold sampAddr
  omega

/-- Inside `SPEC` on a granule that began in `s`: what lies at or beyond `IDX` is still 0, and what belongs to
another granule or channel is as it was. -/
structure SpecSamples (gr ch : Fin 2) (s t : State) : Prop where
  beyond : ∀ i < 576, t.idx.toNat ≤ i → Memory.read t.samp (sampAddr gr ch i) = 0
  outside : ∀ a, (∀ i < 576, a ≠ sampAddr gr ch i) → Memory.read t.samp a = Memory.read s.samp a

/-- The first lines of `SPEC` zero the whole granule and nothing else (R240). -/
theorem specStart_samples (gr ch : Fin 2) (s : State) : SpecSamples gr ch s (specStart gr ch s) where
  beyond i hi _ := by
    simp only [specStart, Memory.read_clear]
    exact if_pos (by unfold sampAddr; omega)
  outside a ha := by
    simp only [specStart, Memory.read_clear]
    refine if_neg fun hin => ha (a - sampBase gr ch) (by omega) ?_
    unfold sampAddr
    omega

/-- A word that has room is stored from `IDX` on, and `IDX` moves past it (R235, R238). -/
theorem storeWord_samples {gr ch : Fin 2} {vs : Option (List Int)} (c : Cursor) {s t : State}
    (hroom : ∀ xs, vs = some xs → t.idx.toNat + xs.length ≤ 576) (h : SpecSamples gr ch s t) :
    SpecSamples gr ch s (storeWord gr ch vs c t).1 := by
  cases vs with
  | none => exact ⟨by simpa [storeWord] using h.beyond, by simpa [storeWord] using h.outside⟩
  | some xs =>
    have hlen : t.idx.toNat + xs.length ≤ 576 := hroom xs rfl
    have hidx : (t.idx + BitVec.ofNat 10 xs.length).toNat = t.idx.toNat + xs.length := idx_add hlen
    refine ⟨fun i hi hle => ?_, fun a ha => ?_⟩
    · simp only [storeWord, applyCursor_idx, applyCursor_samp, hidx] at hle ⊢
      rw [Memory.read_writeAll_of_not_mem]
      · exact h.beyond i hi (by omega)
      · intro kv hkv
        obtain ⟨k, hk, haddr⟩ := mem_sampWrites hkv
        rw [haddr, Ne, sampAddr_inj]
        omega
    · simp only [storeWord, applyCursor_samp]
      rw [Memory.read_writeAll_of_not_mem]
      · exact h.outside a ha
      · intro kv hkv
        obtain ⟨k, hk, haddr⟩ := mem_sampWrites hkv
        rw [haddr]
        exact (ha _ (by omega)).symm

theorem pairBody_samples {gr ch : Fin 2} (tbl : Nat) {s t : State} (hroom : t.idx.toNat + 2 ≤ 576)
    (h : SpecSamples gr ch s t) : SpecSamples gr ch s (pairBody gr ch tbl t).1 := by
  refine storeWord_samples _ (fun xs hxs => ?_) h
  obtain ⟨p, _, rfl⟩ := Option.map_eq_some_iff.mp hxs
  exact hroom

theorem quadBody_samples {gr ch : Fin 2} (sel : Bool) {s t : State} (hroom : t.idx.toNat + 4 ≤ 576)
    (h : SpecSamples gr ch s t) : SpecSamples gr ch s (quadBody gr ch sel t).1 :=
  storeWord_samples _ (fun _ hxs => by rw [readQuad_length hxs]; exact hroom) h

/-- Both loops of `SPEC` keep what its first lines set up, with `IDX` within the granule (R240). -/
theorem specLoops_samples (gr ch : Fin 2) (g : SideBlock) (stop : Nat) (s : State) :
    SpecSamples gr ch s (specLoops gr ch g stop (specStart gr ch s)).1 ∧
      (specLoops gr ch g stop (specStart gr ch s)).1.idx.toNat ≤ 576 :=
  specLoops_keeps_idx gr ch g stop (specStart gr ch s) (specStart_samples gr ch s) rfl
    (fun tbl _ hroom h => pairBody_samples tbl hroom h) (fun sel _ hroom h => quadBody_samples sel hroom h)

/-- `SPEC` leaves them so: its last lines write no sample (R240). -/
theorem specBody_samples (gr ch : Fin 2) (s : State) :
    SpecSamples gr ch s (specBody gr ch s).1 ∧ (specBody gr ch s).1.idx.toNat ≤ 576 := by
  obtain ⟨h, hidx⟩ := specLoops_samples gr ch (s.si.get gr ch) (s.granuleEnd (s.si.get gr ch)) s
  unfold specBody
  simp only
  generalize specLoops gr ch (s.si.get gr ch) (s.granuleEnd (s.si.get gr ch)) (specStart gr ch s) = r
    at h hidx ⊢
  exact ⟨⟨h.beyond, h.outside⟩, hidx⟩

/-- The last lines of `SPEC` write `NZC` only among the side-information registers (R240). -/
theorem specBody_si (gr ch : Fin 2) (s : State) :
    (specBody gr ch s).1.si = s.si.set gr ch { s.si.get gr ch with nzc := (specBody gr ch s).1.idx } := by
  have hsi : ∀ g stop, (specLoops gr ch g stop (specStart gr ch s)).1.si = s.si := fun g stop =>
    specLoops_unchanged gr ch g stop (specStart gr ch s) .si (by decide)
  simp only [specBody, specEnd, hsi]

theorem specBody_cur (gr ch : Fin 2) (s : State) :
    (specBody gr ch s).1.cur = s.p2start + (s.si.get gr ch).p23len.setWidth 32 := by
  simp only [specBody, specEnd, State.granuleEnd]
  rw [BitVec.ofNat_add, BitVec.ofNat_toNat, BitVec.ofNat_toNat, BitVec.setWidth_eq]

/-- The precondition of `SPEC` in R360 is the test the machine makes. -/
theorem granulePre_of_precondition {gr ch : Fin 2} {s : State}
    (h : Reference.precondition (.spec gr ch) s) : granulePre ch (accept s) = true := by
  obtain ⟨hvalid, hchannel⟩ := h
  exact Bool.and_eq_true_iff.mpr ⟨hvalid, decide_eq_true hchannel⟩

theorem exec_spec {gr ch : Fin 2} {s : State} (h : Reference.precondition (.spec gr ch) s) :
    exec (.spec gr ch) s = .next (specBody gr ch (accept s)).1 :=
  guarded_of_pre (i := .spec gr ch) (body := fun s => (specBody gr ch s).1) (granulePre_of_precondition h)

theorem specBody_accept_unchanged (gr ch : Fin 2) (s : State) :
    unchangedBut (writes (.spec gr ch)) s (specBody gr ch (accept s)).1 :=
  unchangedBut_trans (unchangedBut_mono (l' := Part.errors ++ [.samp, .idx, .si, .cur])
    (accept_unchanged s) (by decide)) (specBody_unchanged gr ch (accept s))

/-- Settles O33, from what `SPEC`'s loops keep of the samples and its last lines write. -/
theorem specZeroesBeyondNzc : Obligations.SpecZeroesBeyondNzc := by
  intro gr ch s hpre
  obtain ⟨hsamples, hidx⟩ := specBody_samples gr ch (accept s)
  have hsi := specBody_si gr ch (accept s)
  have hcur := specBody_cur gr ch (accept s)
  have hframe := specBody_accept_unchanged gr ch s
  rw [exec_spec hpre]
  generalize (specBody gr ch (accept s)).1 = t at *
  have hnzc : (t.si.get gr ch).nzc = t.idx := by rw [hsi, SideBlocks.get_set_same]
  exact ⟨t, rfl, hnzc, hidx, hsamples.beyond, hsamples.outside, hsi, hcur, hframe⟩

end Sys2Proof.Machine

/-! ## What the host does between commands (10_state.md R21, R23; 20_memory.md R81) -/

namespace Sys2Proof.Machine

/-- A write of a legal word to `CMD` runs its command (R23, 30_encoding.md R110). -/
theorem perform_command {w : Word} {i : Instr} (h : decode w = .ok i) (s : State) :
    perform (.regWrite 0 w) s = exec i s := by
  change issue w s = exec i s
  unfold issue
  rw [h]

/-- Settles O6: both clauses are the step on a state whose oldest action writes the word to `CMD`. -/
theorem stepRunsTheDecodedCommand : Obligations.StepRunsTheDecodedCommand := by
  refine ⟨fun s rest w i hhost hdec => ?_, fun s w i hdec => ?_⟩
  · rw [step_of_host hhost, perform_command hdec]
  · have hword : BitVec.ofNat 32 (w.toNat % 2 ^ 32) = w := by
      rw [Nat.mod_eq_of_lt w.isLt, BitVec.ofNat_toNat, BitVec.setWidth_eq]
    have hhost : (s.withFetchWord 32 w.toNat).host = .regWrite 0 w :: s.host := by
      rw [State.withFetchWord, hword]
      rfl
    rw [step_of_host hhost, perform_command hdec]
    rfl

/-! ### Writes and loads -/

/-- The legal value of `CFG_NREG` as a number (10_state.md R28). -/
theorem clampNreg_eq (v : Word) :
    clampNreg v = BitVec.ofNat 6 (if v.toNat = 0 then 1 else min v.toNat 32) := by
  unfold clampNreg
  by_cases hzero : v = 0
  · subst hzero
    rfl
  · have hnat : v.toNat ≠ 0 := fun h0 => hzero (BitVec.eq_of_toNat_eq h0)
    rw [if_neg hzero, if_neg hnat]
    by_cases hbig : 32 < v.toNat
    · rw [if_pos hbig, min_eq_right (by omega)]
      rfl
    · rw [if_neg hbig, min_eq_left (by omega), BitVec.ofNat_toNat]

/-- A loaded buffer holds exactly the loaded bytes (20_memory.md R81). -/
theorem Buffer.bytes_ofBytes (vs : List Byte) : (Buffer.ofBytes vs).bytes = vs := by
  apply List.ext_getElem
  · simp
  · intro i hi hi'
    simp [Buffer.bytes, Buffer.slice, Buffer.read_ofBytes, List.getElem?_eq_getElem hi']

theorem hostLoad_of_le {s : State} {b : BufId} {bytes : List Byte}
    (h : ∀ c, s.cap b = some c → bytes.length ≤ c) : hostLoad b bytes s = .next (s.bufLoad b bytes) := by
  unfold hostLoad
  refine if_pos ?_
  unfold State.fits
  split
  · rfl
  · exact decide_eq_true (h _ ‹_›)

theorem hostLoad_of_lt {s : State} {b : BufId} {bytes : List Byte} {c : Nat} (hc : s.cap b = some c)
    (h : c < bytes.length) : hostLoad b bytes s = .refused .bufLoadOverCapacity := by
  unfold hostLoad State.fits
  rw [hc]
  exact if_neg (by simpa using h)

/-- A write of a register other than `CMD` is no command (10_state.md R21, R23). -/
theorem perform_regWrite {n : Nat} (hn : n ≠ 0) (v : Word) (s : State) :
    perform (.regWrite n v) s = .next (s.regWrite n v) := if_neg hn

/-- The three loads and the buffers they fill (20_memory.md R81). -/
theorem perform_load {op : HostOp} {bytes : List Byte} {b : BufId} (s : State)
    (hop : (op = .loadIbuf bytes ∧ b = .ibuf) ∨ (op = .loadPlain bytes ∧ b = .plain) ∨
      (op = .loadCode bytes ∧ b = .code)) : perform op s = hostLoad b bytes s := by
  rcases hop with ⟨rfl, rfl⟩ | ⟨rfl, rfl⟩ | ⟨rfl, rfl⟩ <;> rfl

/-- Settles O59: the writes by the branches of `regWrite`, the loads by what `hostLoad` does within a capacity
and beyond it. -/
theorem hostWritesWhatItMay : Obligations.HostWritesWhatItMay := by
  constructor
  · intro s rest n v hhost hn
    rw [step_of_host hhost, perform_regWrite hn, State.regWrite.eq_def]
    congr 1
    split
    case h_2 => simp only [clampNreg_eq]; rfl
    case h_8 h5 h6 h7 h9 hA hC hD =>
      simp only [if_neg h5, if_neg h6, if_neg h7, if_neg h9, if_neg hA, if_neg hC, if_neg hD]
    all_goals rfl
  · intro s rest bytes op b hop hhost u
    have hstep : step s = hostLoad b bytes u := (step_of_host hhost).trans (perform_load u hop)
    have hcap : u.cap b = s.cap b := by cases b <;> rfl
    rw [hstep]
    constructor
    · intro hfits
      rw [hostLoad_of_le (hcap ▸ hfits)]
      refine ⟨Buffer.ofBytes bytes, Buffer.bytes_ofBytes bytes, rfl, ?_⟩
      rcases hop with ⟨_, rfl⟩ | ⟨_, rfl⟩ | ⟨_, rfl⟩ <;> rfl
    · intro c hc hlt
      exact hostLoad_of_lt (hcap.trans hc) hlt

end Sys2Proof.Machine

/-! ### Reads (10_state.md R60) -/

namespace Sys2Proof.Machine

open Sys2Proof.Reference

/-- A group of registers holds what a list says of each number in it, and 0 at every other number. -/
structure HoldsListed (f : Nat → Nat) (l : List (Nat × Nat)) : Prop where
  listed : ∀ r ∈ l, f r.1 = r.2
  unlisted : ∀ n, (∀ r ∈ l, r.1 ≠ n) → f n = 0

theorem controlMap_holds (s : State) : HoldsListed s.controlReg (controlMap s) where
  listed := by
    simp only [controlMap, List.forall_mem_append, List.forall_mem_cons]
    simp [State.controlReg]
  unlisted n h := by
    simp only [controlMap, List.forall_mem_append, List.forall_mem_cons] at h
    unfold State.controlReg
    split <;> simp_all

theorem headerMap_holds (h : Header) : HoldsListed h.reg (headerMap h) where
  listed := by
    simp only [headerMap, List.forall_mem_append, List.forall_mem_cons]
    simp [Header.reg]
  unlisted n hn := by
    simp only [headerMap, List.forall_mem_append, List.forall_mem_cons] at hn
    unfold Header.reg
    split <;> simp_all

theorem coderMap_holds (c : Coder) : HoldsListed c.reg (coderMap c) where
  listed := by
    simp only [coderMap, List.forall_mem_append, List.forall_mem_cons]
    simp [Coder.reg]
  unlisted n h := by
    simp only [coderMap, List.forall_mem_append, List.forall_mem_cons] at h
    unfold Coder.reg
    split <;> simp_all

/-- The registers of a block stand in the order of their offsets (10_state.md R40). -/
theorem sideBlock_reg (g : SideBlock) (off : Nat) : g.reg off = (blockFields g).getD off 0 := by
  by_cases h : off < 19
  · interval_cases off <;> rfl
  · have hlen : (blockFields g).length = 19 := rfl
    rw [List.getD_eq_default _ _ (by omega)]
    unfold SideBlock.reg
    split <;> first | rfl | omega

/-- An entry of the history at or beyond `RING_CNT` reads 0 (R38). -/
theorem ringEntry_eq (ring : List (BitVec 12)) (k : Nat) :
    (ringEntry ring k).toNat = if k < ring.length then (ring.getD k 0).toNat else 0 := by
  unfold ringEntry
  split
  · rfl
  · rw [List.getD_eq_default _ _ (by omega)]
    rfl

/-! #### A register number is in one group -/

theorem regRead_control (s : State) {n : Nat} (h : n < 0x20) :
    s.regRead n = BitVec.ofNat 32 (s.controlReg n) := by
  unfold State.regRead
  rw [if_pos h]

theorem regRead_header (s : State) {n : Nat} (h : 0x20 ≤ n) (h' : n < 0x30) :
    s.regRead n = BitVec.ofNat 32 (s.hdr.reg n) := by
  unfold State.regRead
  rw [if_neg (by omega), if_pos h']

theorem regRead_ring (s : State) {k : Nat} (h : k < 9) :
    s.regRead (0x31 + k) = BitVec.ofNat 32 (ringEntry s.ring k).toNat := by
  unfold State.regRead
  rw [if_neg (by omega), if_neg (by omega), if_neg (by omega), if_pos (by omega), Nat.add_sub_cancel_left]

/-- The numbers between the history and the blocks, but for the three side-information registers: the
coder's, and some that hold nothing. -/
theorem regRead_coder (s : State) {n : Nat} (h : 0x39 < n) (h' : n < 0x80)
    (hside : n ≠ 0x40 ∧ n ≠ 0x41 ∧ n ≠ 0x42) : s.regRead n = BitVec.ofNat 32 (s.ac.reg n) := by
  obtain ⟨h40, h41, h42⟩ := hside
  unfold State.regRead
  rw [if_neg (by omega), if_neg (by omega), if_neg (by omega), if_neg (by omega), if_neg h40, if_neg h41,
    if_neg h42, if_pos h']

theorem regRead_block (s : State) (gr ch : Fin 2) {off : Nat} (h : off < 0x20) :
    s.regRead (0x80 + 0x20 * (2 * gr.val + ch.val) + off) =
      BitVec.ofNat 32 ((blockFields (s.si.get gr ch)).getD off 0) := by
  rw [← sideBlock_reg]
  unfold State.regRead
  fin_cases gr <;> fin_cases ch <;> simp only [SideBlocks.get] <;>
    repeat rw [if_neg (by omega)]
  all_goals rw [if_pos (by omega), Nat.add_sub_cancel_left]

theorem regRead_beyond (s : State) {n : Nat} (h : 0x100 ≤ n) : s.regRead n = 0 := by
  unfold State.regRead
  repeat rw [if_neg (by omega)]
  rfl

/-- Every number of a block is the base of a granule and channel and an offset below 0x20 (10_state.md R40). -/
theorem exists_block {n : Nat} (h : 0x80 ≤ n) (h' : n < 0x100) :
    ∃ (gr ch : Fin 2) (off : Nat), off < 0x20 ∧ n = 0x80 + 0x20 * (2 * gr.val + ch.val) + off :=
  ⟨⟨(n - 0x80) / 0x40, by omega⟩, ⟨(n - 0x80) / 0x20 % 2, by omega⟩, (n - 0x80) % 0x20, by omega, by
    simp only
    omega⟩

/-! #### The whole map -/

/-- The three side-information registers outside the blocks (10_state.md R39). -/
def sideMap (s : State) : List (Nat × Nat) :=
  [(0x40, s.mdb.toNat), (0x41, s.siPrivate.toNat), (0x42, s.scfsi.toNat)]

/-- A register of the map is one of the control, header, history, side-information or coder registers or of a
block. -/
theorem mem_registerMap {s : State} {r : Nat × Nat} :
    r ∈ registerMap s ↔ r ∈ controlMap s ∨ r ∈ headerMap s.hdr ∨ r ∈ ringMap s.ring ∨ r ∈ sideMap s ∨
      r ∈ coderMap s.ac ∨ ∃ gr ch, r ∈ blockMap gr ch s := by
  simp only [registerMap, List.mem_append, sideMap, Fin.exists_fin_two, or_assoc]

theorem mem_ringMap {ring : List (BitVec 12)} {r : Nat × Nat} :
    r ∈ ringMap ring ↔ r = (0x30, ring.length % 2 ^ 4) ∨
      ∃ k < 9, r = (0x31 + k, (ringEntry ring k).toNat) := by
  simp only [ringMap, List.mem_cons, List.mem_map, List.mem_range, ringEntry_eq, eq_comm]

theorem mem_blockMap {gr ch : Fin 2} {s : State} {r : Nat × Nat} :
    r ∈ blockMap gr ch s ↔ ∃ off < 19, r = (0x80 + 0x20 * (2 * gr.val + ch.val) + off,
      (blockFields (s.si.get gr ch)).getD off 0) := by
  have hlen : (blockFields (s.si.get gr ch)).length = 19 := rfl
  simp only [blockMap, List.mem_map]
  constructor
  · rintro ⟨⟨v, off⟩, hmem, rfl⟩
    have hoff := List.mem_zipIdx_iff_getElem?.mp hmem
    obtain ⟨hlt, hv⟩ := List.getElem?_eq_some_iff.mp hoff
    exact ⟨off, hlen ▸ hlt, by rw [List.getD_eq_getElem _ _ hlt, hv]⟩
  · rintro ⟨off, hlt, rfl⟩
    refine ⟨(_, off), List.mem_zipIdx_iff_getElem?.mpr ?_, rfl⟩
    change (blockFields (s.si.get gr ch))[off]? = some ((blockFields (s.si.get gr ch)).getD off 0)
    rw [List.getD_eq_getElem _ _ (hlen ▸ hlt)]
    exact List.getElem?_eq_getElem _

theorem controlMap_range (s : State) : ∀ r ∈ controlMap s, r.1 < 0x20 := by
  simp [controlMap]

theorem headerMap_range (h : Header) : ∀ r ∈ headerMap h, 0x20 ≤ r.1 ∧ r.1 < 0x30 := by
  simp [headerMap]

theorem coderMap_range (c : Coder) : ∀ r ∈ coderMap c, 0x60 ≤ r.1 ∧ r.1 < 0x66 := by
  simp [coderMap]

/-- A register of the map reads what it holds (10_state.md R21, R60). -/
theorem regRead_listed (s : State) (r : Nat × Nat) (hr : r ∈ registerMap s) :
    s.regRead r.1 = BitVec.ofNat 32 r.2 := by
  rcases mem_registerMap.mp hr with h | h | h | h | h | ⟨gr, ch, h⟩
  · rw [regRead_control s (controlMap_range s r h), (controlMap_holds s).listed r h]
  · obtain ⟨hlo, hhi⟩ := headerMap_range s.hdr r h
    rw [regRead_header s hlo hhi, (headerMap_holds s.hdr).listed r h]
  · rcases mem_ringMap.mp h with rfl | ⟨k, hk, rfl⟩
    · rfl
    · exact regRead_ring s hk
  · simp only [sideMap, List.mem_cons, List.not_mem_nil, or_false] at h
    rcases h with rfl | rfl | rfl <;> rfl
  · obtain ⟨hlo, hhi⟩ := coderMap_range s.ac r h
    rw [regRead_coder s (by omega) (by omega) (by omega), (coderMap_holds s.ac).listed r h]
  · obtain ⟨off, hoff, rfl⟩ := mem_blockMap.mp h
    exact regRead_block s gr ch (by omega)

/-- A number that the map does not have reads 0 (R60). -/
theorem regRead_unlisted (s : State) (n : Nat) (h : ∀ r ∈ registerMap s, r.1 ≠ n) : s.regRead n = 0 := by
  have hring : ∀ r ∈ ringMap s.ring, r.1 ≠ n := fun r hr => h r (mem_registerMap.mpr (by simp [hr]))
  have hside : ∀ r ∈ sideMap s, r.1 ≠ n := fun r hr => h r (mem_registerMap.mpr (by simp [hr]))
  by_cases hcontrol : n < 0x20
  · rw [regRead_control s hcontrol, (controlMap_holds s).unlisted n fun r hr =>
      h r (mem_registerMap.mpr (.inl hr))]
    rfl
  by_cases hheader : n < 0x30
  · rw [regRead_header s (by omega) hheader, (headerMap_holds s.hdr).unlisted n fun r hr =>
      h r (mem_registerMap.mpr (by simp [hr]))]
    rfl
  by_cases hhistory : n ≤ 0x39
  · have h30 : 0x30 ≠ n := hring _ (mem_ringMap.mpr (.inl rfl))
    exact absurd (by simp only; omega) (hring _ (mem_ringMap.mpr (.inr ⟨n - 0x31, by omega, rfl⟩)))
  by_cases hcoder : n < 0x80
  · simp only [sideMap, List.forall_mem_cons] at hside
    obtain ⟨h40, h41, h42, -⟩ := hside
    rw [regRead_coder s (by omega) hcoder (by omega), (coderMap_holds s.ac).unlisted n fun r hr =>
      h r (mem_registerMap.mpr (by simp [hr]))]
    rfl
  by_cases hblock : n < 0x100
  · obtain ⟨gr, ch, off, hoff, rfl⟩ := exists_block (by omega) hblock
    rw [regRead_block s gr ch hoff, List.getD_eq_default]
    · rfl
    · by_contra hlt
      exact h _ (mem_registerMap.mpr (.inr (.inr (.inr (.inr (.inr
        ⟨gr, ch, mem_blockMap.mpr ⟨off, Nat.lt_of_not_le hlt, rfl⟩⟩)))))) rfl
  · exact regRead_beyond s (by omega)

/-- `STATUS` bit by bit (10_state.md R24). -/
theorem status_getLsbD (s : State) (k : Nat) :
    s.status.getLsbD k =
      (decide (k = 0) && s.done || decide (k = 1) && s.hValid || decide (k = 2) && s.siValid ||
        decide (k = 3) && s.mdValid || decide (k = 4) && decide (s.acMode = .encoding) ||
        decide (k = 5) && decide (s.acMode = .decoding)) := by
  have below : ∀ (k : Fin 6) (done h si md : Bool) (m : AcMode),
      (BitVec.ofNat 6 (done.toNat + 2 * h.toNat + 4 * si.toNat + 8 * md.toNat + 16 * m.bits)).getLsbD k =
        (decide (k.val = 0) && done || decide (k.val = 1) && h || decide (k.val = 2) && si ||
          decide (k.val = 3) && md || decide (k.val = 4) && decide (m = .encoding) ||
          decide (k.val = 5) && decide (m = .decoding)) := by
    intro k done h si md m
    cases m <;> revert k done h si md <;> decide
  by_cases hk : k < 6
  · exact below ⟨k, hk⟩ s.done s.hValid s.siValid s.mdValid s.acMode
  · rw [BitVec.getLsbD_of_ge _ _ (by omega)]
    simp [show k ≠ 0 ∧ k ≠ 1 ∧ k ≠ 2 ∧ k ≠ 3 ∧ k ≠ 4 ∧ k ≠ 5 by omega]

theorem regRead_status (s : State) (k : Nat) : (s.regRead 0x01).getLsbD k = s.status.getLsbD k := by
  rw [regRead_control s (by decide)]
  change (BitVec.ofNat 32 s.status.toNat).getLsbD k = _
  rw [BitVec.ofNat_toNat, BitVec.getLsbD_setWidth]
  by_cases hk : k < 32
  · simp [hk]
  · rw [BitVec.getLsbD_of_ge _ k (by omega), Bool.and_false]

/-- `BufRead` byte by byte (20_memory.md R81). -/
theorem bufRead_getElem? (s : State) (b : BufId) (a : Nat) {i n : Nat} (h : i < n) :
    (s.bufRead b a n)[i]? =
      some (if a + i < (s.buf b).len then ((s.buf b).read (a + i)).setWidth 32 else 0) := by
  have hbyte : (s.bufRead b a n)[i]? = some (((s.buf b).read (a + i)).setWidth 32) := by
    simp [State.bufRead, Buffer.slice, h]
  rw [hbyte]
  split
  · rfl
  · rw [Buffer.read_of_ge (by omega)]
    rfl

/-- A memory element by indices: 0 when one is out of range (R81). -/
theorem indexed_decide {w : Nat} (p : Prop) [Decidable p] (m : Memory w) (a : Nat) :
    indexed (decide p) m a = if p then (Memory.read m a).setWidth 32 else 0 := by
  unfold indexed
  by_cases h : p <;> simp [h]

/-- Settles O60: a register is in the one group its number lies in, and a read only sets what the
host is told. -/
theorem hostReadsChangeNothing : Obligations.HostReadsChangeNothing := by
  intro s rest told
  refine ⟨fun n hhost => ?_, regRead_listed s, regRead_unlisted s, fun k => ?_, fun b a n hhost => ?_,
    fun gr ch i hhost => ?_, fun gr ch sfb hhost => ?_, fun gr ch win sfb hhost => ?_, fun r c y hhost => ?_⟩
  · exact step_of_host hhost
  · rw [regRead_status, status_getLsbD]
  · exact ⟨s.bufRead b a n, step_of_host hhost, by simp [State.bufRead],
      fun i hi => bufRead_getElem? s b a hi⟩
  all_goals
    rw [step_of_host hhost, ← indexed_decide]
    rfl

end Sys2Proof.Machine

/-! ## Memories in their canonical form and in range (10_state.md R42 to R45; 20_memory.md R80, R88) -/

namespace Sys2Proof.Machine

/-! ### Every address a command computes lies in its memory -/

theorem sampAddr_lt (gr ch : Fin 2) {i : Nat} (h : i < 576) : sampAddr gr ch i < 2 * 2 * 576 := by
  unfold sampAddr sampBase
  omega

theorem scfLAddr_lt (gr ch : Fin 2) {sfb : Nat} (h : sfb < 21) : scfLAddr gr ch sfb < 2 * 2 * 21 := by
  unfold scfLAddr scfLBase
  omega

theorem scfSAddr_lt (gr ch : Fin 2) {win sfb : Nat} (hwin : win < 3) (hsfb : sfb < 13) :
    scfSAddr gr ch win sfb < 2 * 2 * 3 * 13 := by
  unfold scfSAddr scfSBase
  omega

theorem cntAddr_lt {r x : Nat} (y : Bool) (hr : r < 32) (hx : x ≤ 511) :
    cntAddr r x y < 32 * 512 * 2 := by
  have := Bool.toNat_lt y
  unfold cntAddr
  omega

/-- No layout has an entry for a long band beyond 20 (41_frame_parser.md R206 to R209). -/
theorem scfSlots_long {s : State} {gr ch : Fin 2} {slot : ScfSlot} {sfb : Nat}
    (h : slot ∈ scfSlots s gr ch) (hd : slot.dest = .long sfb) : sfb < 21 := by
  have short : ∀ {lo hi width}, slot ∉ shortSlots lo hi width := by
    intro lo hi width hmem
    obtain ⟨win, sfb', hd', -⟩ := mem_shortSlots hmem
    cases hd.symm.trans hd'
  unfold scfSlots at h
  simp only at h
  split at h
  · split at h
    · simp only [List.mem_append, short, or_false] at h
      obtain ⟨k, hk, rfl⟩ := List.mem_map.mp h
      cases hd
      exact (List.mem_range.mp hk).trans (by decide)
    · simp only [List.mem_append, short, or_false] at h
  · obtain ⟨k, hk, rfl⟩ := List.mem_map.mp h
    cases hd
    exact List.mem_range.mp hk

/-- Every write to the long image is an entry of `SCF_L[gr][ch]`. -/
theorem mem_longWrites {s : State} {gr ch : Fin 2} {c : Cursor} {kv : Nat × BitVec 4}
    (h : kv ∈ longWrites gr ch (readSlots s.mdbuf (scfSlots s gr ch) c).1) :
    ∃ sfb < 21, kv.1 = scfLAddr gr ch sfb := by
  obtain ⟨⟨dest, v⟩, hmem, hkv⟩ := List.mem_filterMap.mp h
  cases dest with
  | short win sfb => cases hkv
  | long sfb =>
    cases hkv
    have hdest : ScfDest.long sfb ∈ (scfSlots s gr ch).map ScfSlot.dest := by
      rw [← readSlots_dest s.mdbuf _ c]
      exact List.mem_map_of_mem hmem
    obtain ⟨slot, hslot, hd⟩ := List.mem_map.mp hdest
    exact ⟨sfb, scfSlots_long hslot hd, rfl⟩

/-- With a legal `CFG_NREG` the region index is one of the 32 regions of `CNT` (44_arithmetic_coder.md R283). -/
theorem State.region_lt {s : State} (h : 1 ≤ s.cfgNreg.toNat ∧ s.cfgNreg.toNat ≤ 32) : s.region < 32 := by
  unfold State.region
  split
  · decide
  · exact (Config.regionOf_lt s.cfg _ _ h.1).trans_le h.2

/-! ### The coder's counts and context -/

/-- What the memory form asks of the coder: counts in canonical form, and a context that indexes them. -/
structure Coder.MemWf (c : Coder) : Prop where
  cnt : Memory.wf (32 * 512 * 2) c.cnt = true
  ctx : c.ctx.toNat ≤ 511

theorem Coder.countUp_wf {c : Coder} {r : Nat} (y : Bool) (hr : r < 32) (h : c.MemWf) :
    Memory.wf (32 * 512 * 2) (c.countUp r y) = true := by
  have haddr : ∀ z, cntAddr r c.ctx.toNat z < 32 * 512 * 2 := fun z => cntAddr_lt z hr h.ctx
  have hinc := Memory.wf_write (Memory.read c.cnt (cntAddr r c.ctx.toNat y) + 1) h.cnt (haddr y)
  unfold Coder.countUp
  simp only
  split
  · exact Memory.wf_write _ (Memory.wf_write _ hinc (haddr false)) (haddr true)
  · exact hinc

theorem Coder.MemWf.update {c : Coder} {r : Nat} (y : Bool) (hr : r < 32) (h : c.MemWf) :
    (c.update r y).MemWf where
  cnt := Coder.countUp_wf y hr h
  ctx := by
    simp only [Coder.update]
    split
    · decide
    · rw [BitVec.toNat_ofNat]
      omega

theorem Coder.MemWf.advance {c : Coder} {r : Nat} (y : Bool) (hr : r < 32) (h : c.MemWf) :
    (c.advance r y).MemWf := by
  have hnarrow : (c.narrow r y).MemWf := ⟨by rw [narrow_cnt]; exact h.cnt, by rw [narrow_ctx]; exact h.ctx⟩
  exact hnarrow.update y hr

/-- Renormalisation writes neither the counts nor the context (R287). -/
theorem Coder.MemWf.renormDec (code : Buffer) (n : Nat) {c : Coder} (h : c.MemWf) :
    (c.renormDec code n).MemWf := by
  induction n generalizing c with
  | zero => exact h
  | succ n ih =>
    unfold Coder.renormDec
    split
    · exact ih (c := c.shift.pull code) ⟨h.cnt, h.ctx⟩
    · exact h

/-! ### Every action keeps the memory form

An action's own lemma names the memories it writes; those it leaves alone it takes over with `{ h with … }`. -/

namespace State.MemWf

theorem coder {s : State} (h : s.MemWf) : s.ac.MemWf := ⟨h.cnt, h.ctx⟩

theorem setCoder {s : State} {c : Coder} (h : s.MemWf) (hc : c.MemWf) : State.MemWf { s with ac := c } :=
  { h with cnt := hc.cnt, ctx := hc.ctx }

theorem setBuf {s : State} (h : s.MemWf) (i : BufId) {b : Buffer} (hb : b.wf = true) :
    (s.setBuf i b).MemWf := by
  cases i with
  | ibuf => exact { h with ibuf := hb }
  | mdbuf => exact { h with mdbuf := hb }
  | plain => exact { h with plain := hb }
  | code => exact { h with code := hb }
  | obuf => exact { h with obuf := hb }

theorem raise {s : State} (h : s.MemWf) (c : Cond) (n : Nat) : (raise c n s).MemWf := { h with }

theorem noteMissing {s : State} (h : s.MemWf) (m : Option Nat) : (noteMissing m s).MemWf := by
  cases m with
  | none => exact h
  | some n => exact h.raise _ n

theorem noteCopies {s : State} (h : s.MemWf) (b : Buffer) (parts : List (Nat × Nat)) :
    (noteCopies b parts s).MemWf := by
  induction parts generalizing s with
  | nil => exact h
  | cons r parts ih => exact ih (h.noteMissing _)

theorem hdrBody {s : State} (h : s.MemWf) : (hdrBody s).MemWf := by
  have hclear : (clearValid s).MemWf := { h with }
  have hnote := hclear.noteMissing (s.ibuf.missing (8 * s.foff.toNat) 32)
  unfold Machine.hdrBody
  simp only
  split
  · exact { hnote with }
  · exact { hnote with }

theorem sideBody {s : State} (h : s.MemWf) : (sideBody s).MemWf := by
  refine noteMissing ?_ _
  exact { h with }

theorem rdbitsBody {s : State} (h : s.MemWf) (b : BufId) (adv : Bool) (n : Nat) :
    (rdbitsBody b adv n s).MemWf := by
  refine noteMissing ?_ _
  exact { h with }

theorem resvBody {s : State} (h : s.MemWf) : (resvBody s).MemWf := by
  have hnote := h.noteMissing
    (copyMissing s.ibuf (s.foff.toNat + s.prefixLen) (s.foff.toNat + s.hdr.frameSize.toNat))
  unfold Machine.resvBody
  simp only
  split
  · exact { hnote with mdbuf := Buffer.wf_ofBytes _ }
  · split
    · exact { hnote with mdbuf := Buffer.wf_empty }
    · exact { hnote.noteCopies _ _ with mdbuf := Buffer.wf_ofBytes _ }

theorem scfBody {s : State} (h : s.MemWf) (gr ch : Fin 2) : (scfBody gr ch s).MemWf := by
  refine noteMissing ?_ _
  refine { h with
    scfL := Memory.wf_writeAll _ (Memory.wf_clear _ _ h.scfL) fun kv hkv => ?_
    scfS := Memory.wf_writeAll _ (Memory.wf_clear _ _ h.scfS) fun kv hkv => ?_ }
  · obtain ⟨sfb, hsfb, haddr⟩ := mem_longWrites hkv
    exact haddr ▸ scfLAddr_lt gr ch hsfb
  · obtain ⟨win, sfb, haddr, hwin, hsfb⟩ := mem_shortWrites hkv
    exact haddr ▸ scfSAddr_lt gr ch hwin (by omega)

/-- A word that has room is stored inside `SAMP` (42_spectrum_huffman.md R235, R238). -/
theorem storeWord {s : State} (h : s.MemWf) (gr ch : Fin 2) {vs : Option (List Int)} (c : Cursor)
    (hroom : ∀ xs, vs = some xs → s.idx.toNat + xs.length ≤ 576) : (storeWord gr ch vs c s).1.MemWf := by
  cases vs with
  | none => exact (h.noteMissing c.miss).raise _ _
  | some xs =>
    have hlen := hroom xs rfl
    refine noteMissing ?_ _
    refine { h with samp := Memory.wf_writeAll _ h.samp fun kv hkv => ?_ }
    obtain ⟨i, hi, haddr⟩ := mem_sampWrites hkv
    exact haddr ▸ sampAddr_lt gr ch (by omega)

theorem pairBody {s : State} (h : s.MemWf) (gr ch : Fin 2) (t : Nat) (hroom : s.idx.toNat + 2 ≤ 576) :
    (pairBody gr ch t s).1.MemWf := by
  refine h.storeWord gr ch _ fun xs hxs => ?_
  obtain ⟨p, _, rfl⟩ := Option.map_eq_some_iff.mp hxs
  exact hroom

theorem quadBody {s : State} (h : s.MemWf) (gr ch : Fin 2) (sel : Bool) (hroom : s.idx.toNat + 4 ≤ 576) :
    (quadBody gr ch sel s).1.MemWf :=
  h.storeWord gr ch _ fun _ hxs => by rw [readQuad_length hxs]; exact hroom

theorem acinitBody {s : State} (h : s.MemWf) (d : Dir) : (acinitBody d s).MemWf :=
  match d with
  | .encode => { h with code := Buffer.wf_empty, cnt := rfl, ctx := (by decide : (1#10).toNat ≤ 511) }
  | .decode => { h with plain := Buffer.wf_empty, cnt := rfl, ctx := (by decide : (1#10).toNat ≤ 511) }

theorem append {s : State} (h : s.MemWf) (b : BufId) (v : Byte) : (append b v s).state.MemWf := by
  have hbuf : ∀ u : State, u.MemWf → (u.buf b).wf = true := by
    intro u hu
    cases b with
    | ibuf => exact hu.ibuf
    | mdbuf => exact hu.mdbuf
    | plain => exact hu.plain
    | code => exact hu.code
    | obuf => exact hu.obuf
  exact append_keeps b v s h (fun n _ hu => hu.raise _ n)
    fun u hu => hu.setBuf b (Buffer.wf_append v (hbuf u hu))

theorem appendAll {s : State} (h : s.MemWf) (b : BufId) (vs : List Byte) :
    (appendAll b vs s).state.MemWf := by
  induction vs generalizing s with
  | nil => exact h
  | cons v vs ih => exact Flow.state_bind (h.append b v) (fun _ hu => hu) fun _ hu => ih hu

theorem renormEnc (n : Nat) {s : State} (h : s.MemWf) : (renormEnc n s).state.MemWf := by
  induction n generalizing s with
  | zero => exact h
  | succ n ih =>
    unfold Machine.renormEnc
    split
    · refine Flow.state_bind (h.append .code _) (fun _ hu => hu) fun u hu => ?_
      exact ih (hu.setCoder (c := u.ac.shift) ⟨hu.cnt, hu.ctx⟩)
    · exact h

theorem encBody {s : State} (h : s.MemWf) (y : Bool) : (encBody y s).state.MemWf :=
  renormEnc 4 (h.setCoder (h.coder.advance y (State.region_lt h.nreg)))

theorem decBody {s : State} (h : s.MemWf) : (decBody s).1.MemWf := by
  have hcoder : (s.ac.decoded s.code s.region).MemWf :=
    (h.coder.advance _ (State.region_lt h.nreg)).renormDec s.code 4
  exact { h.setCoder hcoder with }

theorem flushBody {s : State} (h : s.MemWf) : (flushBody s).state.MemWf :=
  Flow.state_bind (h.appendAll .code _) (fun _ hu => hu) fun _ hu => { hu with }

theorem regWrite {s : State} (h : s.MemWf) (n : Nat) (v : Word) : (s.regWrite n v).MemWf := by
  unfold State.regWrite
  split
  case h_2 => exact { h with nreg := clampNreg_legal v }
  all_goals exact { h with }

theorem bufLoad {s : State} (h : s.MemWf) (b : BufId) (bytes : List Byte) : (s.bufLoad b bytes).MemWf := by
  have hload := h.setBuf b (Buffer.wf_ofBytes bytes)
  cases b with
  | ibuf => exact { hload with }
  | mdbuf | plain | code | obuf => exact hload

/-- Every write lands below its memory's size, with room for the word in `IDX` and a legal region and context. -/
theorem keptByStep : KeptByStep State.MemWf where
  raise c n _ h := h.raise c n
  sinit _ h := { h with obuf := Buffer.wf_empty }
  hdr _ h := h.hdrBody
  side _ _ _ h := h.sideBody
  resv _ _ h := h.resvBody
  scf gr ch _ _ h := h.scfBody gr ch
  adv _ h := { h with }
  pair gr ch t _ hroom h := h.pairBody gr ch t hroom
  quad gr ch sel _ hroom h := h.quadBody gr ch sel hroom
  specStart _ _ _ h := { h with samp := Memory.wf_clear _ _ h.samp }
  specEnd _ _ _ _ _ h := { h with }
  acinit d _ h := h.acinitBody d
  enc y _ _ h := h.encBody y
  dec _ _ h := h.decBody
  flush _ _ h := h.flushBody
  idle _ h := { h with }
  appendPlain v _ h := { h with plain := Buffer.wf_append v h.plain }
  clearPlain _ h := { h with plain := Buffer.wf_empty }
  appendObuf v _ h := { h with obuf := Buffer.wf_append v h.obuf }
  countFrame _ h := { h with }
  zero _ h := { h with samp := rfl, scfL := rfl, scfS := rfl }
  skipByte _ _ _ h := { h with }
  skipFrame _ _ h := { h with }
  done _ h := { h with }
  accept _ h := { h with }
  clearErrors _ h := { h with }
  srst _ h := ⟨h.ibuf, rfl, rfl, rfl, rfl, rfl, rfl, rfl, rfl,
    (by decide : (1#10).toNat ≤ 511), h.nreg⟩
  rdbits b adv n _ h := h.rdbitsBody b adv n
  regWrite n v _ h := h.regWrite n v
  bufLoad b bytes _ _ _ h := h.bufLoad b bytes
  readout _ _ h := { h with }
  host _ _ h := { h with }

end State.MemWf

end Sys2Proof.Machine

/-! ## `MDBUF` within `MD_CAP` (00_scope.md R6, 20_memory.md R82) -/

namespace Sys2Proof.Machine

/-! ### The size of a supported frame (41_frame_parser.md R183, R185) -/

theorem bitrate_default_le : ∀ bri < 16, Config.default.bitrate 3 3 bri ≤ 320 := by decide

theorem srate_default_bounds : ∀ sri < 3,
    32000 ≤ Config.default.srate 3 sri ∧ Config.default.srate 3 sri ≤ 48000 := by decide

/-- The largest supported frame has 320 kbit/s at 32 kHz and a padding byte: `144 · 320000 / 32000 + 1`
(R185). -/
theorem parseHeader_frameSize_le {w : Word} (hok : headerRejected w = false)
    (hver : (parseHeader Config.default w).version = 3) (hlay : (parseHeader Config.default w).layer = 3) :
    (parseHeader Config.default w).frameSize.toNat ≤ 1441 := by
  have field_lt : ∀ lo n, field w lo n < 2 ^ n := fun lo n => (w.extractLsb' lo n).isLt
  have hver : field w 19 2 = 3 := congrArg BitVec.toNat hver
  have hlay : 4 - field w 17 2 = 3 := by
    have hmod : (4 - field w 17 2) % 2 ^ 2 = 3 :=
      (BitVec.toNat_ofNat _ _).symm.trans (congrArg BitVec.toNat hlay)
    have := field_lt 17 2
    omega
  have hsri : field w 10 2 < 3 := by
    have hne : field w 10 2 ≠ 3 := by
      simp only [headerRejected, Bool.or_eq_false_iff, beq_eq_false_iff_ne] at hok
      exact hok.2
    have := field_lt 10 2
    omega
  obtain ⟨hsrate, hsrate'⟩ := srate_default_bounds _ hsri
  have hbitrate := bitrate_default_le _ (field_lt 12 4)
  have hpad := field_lt 9 1
  have hspf : Config.default.spf 3 3 / 8 = 144 := by decide
  simp only [parseHeader, hver, hlay, hspf, BitVec.toNat_ofNat]
  rw [Nat.mod_eq_of_lt (b := 2 ^ 16) (by omega)]
  have hrate : 1000 * Config.default.bitrate 3 3 (field w 12 4) % 2 ^ 19 ≤ 320000 :=
    (Nat.mod_le _ _).trans (by omega)
  have hquot : 144 * (1000 * Config.default.bitrate 3 3 (field w 12 4) % 2 ^ 19) /
      Config.default.srate 3 (field w 10 2) ≤ 144 * 320000 / 32000 :=
    Nat.div_le_div (Nat.mul_le_mul_left 144 hrate) hsrate (by decide)
  exact (Nat.mod_le _ _).trans (by omega)

/-! ### What `RESV` stores (R199) -/

/-- `RESV` leaves at most `main_data_begin` bytes of older frames and the frame's own main data. -/
theorem resvBody_mdbuf_len (s : State) :
    (resvBody s).mdbuf.len ≤ s.mdb.toNat + (s.hdr.frameSize.toNat - s.prefixLen) := by
  have hown : (copyBytes s.ibuf (s.foff.toNat + s.prefixLen) (s.foff.toNat + s.hdr.frameSize.toNat)).length =
      s.hdr.frameSize.toNat - s.prefixLen := by
    rw [copyBytes, Buffer.slice_length]
    omega
  unfold resvBody
  simp only [noteMissing_mdb, noteMissing_ring, noteMissing_ibuf]
  split
  · rw [Buffer.ofBytes_len, hown]
    exact Nat.le_add_left _ _
  · split
    · exact Nat.zero_le _
    · rename_i acc parts hwalk
      obtain ⟨hlen, hacc⟩ := walk_len _ _ s.ibuf _ _ _ [] rfl hwalk
      rw [Buffer.ofBytes_len, List.length_append, List.length_drop, hlen, hown]
      omega

/-! ### Every action keeps `MDBUF` within `MD_CAP` -/

/-- The bound on `MDBUF` with the tables it rests on. -/
def State.DefaultMdbufFits (s : State) : Prop := s.cfg = Config.default ∧ s.MdbufFits

/-- What is claimed of the header rests on the tables, the header and its valid bits. -/
theorem State.DefaultMdbufFits.of_same {s t : State} (h : s.DefaultMdbufFits) (hlen : t.mdbuf.len ≤ 2048)
    (hsame : ∀ p ∈ [Part.cfg, .hValid, .siValid, .hdr], p.same s t) : t.DefaultMdbufFits := by
  obtain ⟨hcfg, hfits⟩ := h
  have hhv : t.hValid = s.hValid := hsame .hValid (by decide)
  have hsv : t.siValid = s.siValid := hsame .siValid (by decide)
  have hhdr : t.hdr = s.hdr := hsame .hdr (by decide)
  refine ⟨(hsame .cfg (by decide)).trans hcfg, hlen, ?_, ?_⟩
  · rw [hhv, hhdr]
    exact hfits.size
  · rw [hsv, hhv, hhdr]
    exact hfits.side

theorem defaultMdbufFits_looksAt :
    DependsOn [.mdbuf, .cfg, .hValid, .siValid, .hdr] State.DefaultMdbufFits := by
  intro s t hsame h
  have hbytes : sameBytes s.mdbuf t.mdbuf := hsame .mdbuf (by decide)
  exact h.of_same (hbytes.1.trans_le h.2.len) fun p hp => hsame p (List.mem_cons_of_mem _ hp)

/-- With both valid bits 0 only the length is claimed. -/
theorem defaultMdbufFits_of_invalid {s : State} (hcfg : s.cfg = Config.default) (hlen : s.mdbuf.len ≤ 2048)
    (hh : s.hValid = false) (hs : s.siValid = false) : s.DefaultMdbufFits :=
  ⟨hcfg, hlen, fun hv => absurd hv (by simp [hh]), fun hv => absurd hv (by simp [hs])⟩

namespace State.DefaultMdbufFits

theorem hdrBody {s : State} (h : s.DefaultMdbufFits) : (hdrBody s).DefaultMdbufFits := by
  have hframe := hdrBody_unchanged s
  have hcfg : (Machine.hdrBody s).cfg = Config.default := (same_of hframe (p := .cfg) (by decide)).trans h.1
  have hbuf : sameBytes s.mdbuf (Machine.hdrBody s).mdbuf := same_of hframe (p := .mdbuf) (by decide)
  refine ⟨hcfg, hbuf.1.trans_le h.2.len, fun hv => ?_, fun hv => absurd hv (by simp [hdrBody_siValid])⟩
  obtain ⟨hok, hparse⟩ := (hdrBody_describesFrame s).header hv
  rw [hparse, hcfg]
  exact parseHeader_frameSize_le hok

theorem sideBody {s : State} (hv : s.hValid = true) (hsupp : s.supported = true) (h : s.DefaultMdbufFits) :
    (sideBody s).DefaultMdbufFits := by
  obtain ⟨hver, hlay⟩ := Bool.and_eq_true_iff.mp hsupp
  have hhv : (Machine.sideBody s).hValid = s.hValid := by simp [Machine.sideBody]
  have hhdr : (Machine.sideBody s).hdr = s.hdr := by simp [Machine.sideBody]
  refine ⟨?_, ?_, ?_, fun _ => ?_⟩
  · simpa [Machine.sideBody] using h.1
  · simpa [Machine.sideBody] using h.2.len
  · rw [hhv, hhdr]
    exact h.2.size
  · rw [hhv, hhdr]
    exact ⟨hv, eq_of_beq hver, eq_of_beq hlay⟩

/-- Side information is valid only for a supported frame, of at most 1441 bytes, and `main_data_begin` is at
most 511. -/
theorem resvBody {s : State} (hv : s.siValid = true) (h : s.DefaultMdbufFits) :
    (resvBody s).DefaultMdbufFits := by
  obtain ⟨hhv, hver, hlay⟩ := h.2.side hv
  have hsize := h.2.size hhv hver hlay
  have hlen := resvBody_mdbuf_len s
  have hmdb := s.mdb.isLt
  exact h.of_same (by omega) ((resvBody_unchanged s).same_on (by decide))

end State.DefaultMdbufFits

/-- Only `RESV` fills `MDBUF`; of the actions that write the header or its valid bits, `HDR` and `SIDE` alone
set one of the bits. -/
theorem defaultMdbufFits_keptByStep : KeptByStep State.DefaultMdbufFits where
  raise c n s := defaultMdbufFits_looksAt.keep (raise_unchanged c n s) (by decide)
  sinit _ h := defaultMdbufFits_of_invalid h.1 h.2.len rfl rfl
  hdr _ h := h.hdrBody
  side _ hv hsupp h := h.sideBody hv hsupp
  resv _ hv h := h.resvBody hv
  scf gr ch s _ := defaultMdbufFits_looksAt.keep (scfBody_unchanged gr ch s) (by decide)
  adv _ h := defaultMdbufFits_of_invalid h.1 h.2.len rfl rfl
  pair gr ch t s _ := defaultMdbufFits_looksAt.keep (pairBody_unchanged gr ch t s) (by decide)
  quad gr ch sel s _ := defaultMdbufFits_looksAt.keep (quadBody_unchanged gr ch sel s) (by decide)
  specStart gr ch s := defaultMdbufFits_looksAt.keep (specStart_unchanged gr ch s) (by decide)
  specEnd gr ch stop s _ := defaultMdbufFits_looksAt.keep (specEnd_unchanged gr ch stop s) (by decide)
  acinit d s := match d with
    | .encode => defaultMdbufFits_looksAt.keep (acinitBody_unchanged_encode s) (by decide)
    | .decode => defaultMdbufFits_looksAt.keep (acinitBody_unchanged_decode s) (by decide)
  enc y s _ := defaultMdbufFits_looksAt.keep (encBody_unchanged y s) (by decide)
  dec s _ := defaultMdbufFits_looksAt.keep (decBody_unchanged s) (by decide)
  flush s _ := defaultMdbufFits_looksAt.keep (flushBody_unchanged s) (by decide)
  idle s := defaultMdbufFits_looksAt.keep (acMode_unchanged s _) (by decide)
  appendPlain _ s := defaultMdbufFits_looksAt.keep (setBuf_unchanged_plain s _) (by decide)
  clearPlain s := defaultMdbufFits_looksAt.keep (setBuf_unchanged_plain s _) (by decide)
  appendObuf _ s := defaultMdbufFits_looksAt.keep (setBuf_unchanged_obuf s _) (by decide)
  countFrame s := defaultMdbufFits_looksAt.keep (frames_unchanged s _) (by decide)
  zero s := defaultMdbufFits_looksAt.keep (zeroGranules_unchanged s) (by decide)
  skipByte s _ _ := defaultMdbufFits_looksAt.keep (skipByte_unchanged s) (by decide)
  skipFrame _ hs h := defaultMdbufFits_of_invalid h.1 h.2.len rfl hs
  done s := defaultMdbufFits_looksAt.keep (done_unchanged s) (by decide)
  accept s := defaultMdbufFits_looksAt.keep (accept_unchanged s) (by decide)
  clearErrors s := defaultMdbufFits_looksAt.keep (clearErrors_unchanged s) (by decide)
  srst _ h := defaultMdbufFits_of_invalid h.1 (Nat.zero_le _) rfl rfl
  rdbits b adv n s :=
    defaultMdbufFits_looksAt.keep (rdbitsBody_unchanged b adv n s) (by cases adv <;> decide)
  regWrite n v s h := by
    rcases regWrite_cases n v s with he | he | he
    · rw [he]
      exact ⟨h.1, { h.2 with }⟩
    · rw [he]
      exact defaultMdbufFits_of_invalid h.1 h.2.len rfl rfl
    · exact defaultMdbufFits_looksAt.keep he (by decide) h
  bufLoad b bytes s hm ho h := by
    rcases bufLoad_cases bytes s hm ho with he | he
    · rw [he]
      exact defaultMdbufFits_of_invalid h.1 h.2.len rfl rfl
    · exact defaultMdbufFits_looksAt.keep he (by decide) h
  readout ws s := defaultMdbufFits_looksAt.keep (readout_unchanged s ws) (by decide)
  host ops s := defaultMdbufFits_looksAt.keep (host_unchanged s ops) (by decide)

/-- Settles O53: the memory form by the address bounds, and the bound on `MDBUF` by the largest supported frame,
each kept by every elementary action. -/
theorem stepKeepsMemoryForm : Obligations.StepKeepsMemoryForm :=
  ⟨State.MemWf.keptByStep.step, fun s t hcfg hfits => defaultMdbufFits_keptByStep.step s t ⟨hcfg, hfits⟩⟩

end Sys2Proof.Machine

/-! ## Command words (30_encoding.md R110 to R114) -/

namespace Sys2Proof.Machine

open Laws
open Reference (OpcodeRow opcodeRows legalWord)

/-! ### A word as an opcode over operand bits -/

theorem commandWord_toNat {op a : Nat} (hop : op < 2 ^ 8) (ha : a < 2 ^ 24) :
    (commandWord op a).toNat = op * 2 ^ 24 + a := by
  unfold commandWord
  rw [BitVec.toNat_ofNat]
  omega

theorem decode_commandWord {op a : Nat} (hop : op < 2 ^ 8) (ha : a < 2 ^ 24) :
    decode (commandWord op a) = decodeOp op a := by
  unfold decode
  rw [commandWord_toNat hop ha, show (op * 2 ^ 24 + a) / 2 ^ 24 = op by omega,
    show (op * 2 ^ 24 + a) % 2 ^ 24 = a by omega]

theorem commandWord_fields (w : Word) : commandWord (w.toNat / 2 ^ 24) (w.toNat % 2 ^ 24) = w := by
  unfold commandWord
  rw [show w.toNat / 2 ^ 24 * 2 ^ 24 + w.toNat % 2 ^ 24 = w.toNat by omega]
  exact (BitVec.ofNat_toNat 32 w).trans (BitVec.setWidth_eq w)

/-! ### Operand fields -/

@[simp] theorem bitFin_val (a i : Nat) : (bitFin a i).val = a / 2 ^ i % 2 := rfl

@[simp] theorem bitBool_toNat (a i : Nat) : (bitBool a i).toNat = a / 2 ^ i % 2 := by
  unfold bitBool
  rcases Nat.mod_two_eq_zero_or_one (a / 2 ^ i) with h | h <;> rw [h] <;> rfl

theorem bitFin_eq {a i : Nat} {x : Fin 2} (h : a / 2 ^ i % 2 = x.val) : bitFin a i = x := Fin.ext h

theorem bitBool_eq {a i : Nat} {y : Bool} (h : a / 2 ^ i % 2 = y.toNat) : bitBool a i = y := by
  unfold bitBool
  rw [h]
  cases y <;> rfl

/-- The direction a bit stands for (R111, format D). -/
theorem dirOfBit_bit (y : Bool) : (if y then Dir.decode else Dir.encode).bit = y.toNat := by
  cases y <;> rfl

theorem dirOfBit_eq {a : Nat} {dir : Dir} (h : a / 2 ^ 0 % 2 = dir.bit) :
    (if bitBool a 0 then Dir.decode else Dir.encode) = dir := by
  cases dir
  · rw [bitBool_eq (y := false) h]; rfl
  · rw [bitBool_eq (y := true) h]; rfl

theorem dir_bit_lt (dir : Dir) : dir.bit < 2 := by cases dir <;> decide

theorem bufId_le_four (b : BufId) : b.id ≤ 4 := by cases b <;> decide

/-- The ids of R80 are 0 to 4, one for each buffer. -/
theorem bufOfId_eq_some_iff {k : Nat} {b : BufId} : bufOfId k = some b ↔ b.id = k := by
  constructor
  · intro h
    unfold bufOfId at h
    split at h
    case h_6 => cases h
    all_goals
      cases h
      rfl
  · rintro rfl
    cases b <;> rfl

theorem exists_bufId {k : Nat} (h : k ≤ 4) : ∃ b : BufId, b.id = k := by
  have : bufOfId k ≠ none := by interval_cases k <;> exact Option.some_ne_none _
  obtain ⟨b, hb⟩ := Option.ne_none_iff_exists'.mp this
  exact ⟨b, bufOfId_eq_some_iff.mp hb⟩

/-! ### The two decoders of operand bits -/

theorem lowField_of_lt (n : Nat) {a : Nat} {i j : Instr} (h : a < 2 ^ n) (hij : i = j) : lowField n a i = .ok j := by
  unfold lowField
  rw [if_pos h, hij]

theorem decodeOp_rdbits (a : Nat) : decodeOp 0x10 a = decodeRdbits a := rfl

/-- Format B is read exactly from the operand bits its fields make (R111, R113). -/
theorem decodeRdbits_eq_ok_iff {a : Nat} {i : Instr} : decodeRdbits a = .ok i ↔
    ∃ (b : BufId) (adv : Bool) (len : Nat), len ≤ 32 ∧ b.id * 2 ^ 21 + adv.toNat * 2 ^ 20 + len = a ∧
      i = .rdbits b adv len := by
  unfold decodeRdbits
  constructor
  · intro h
    split at h
    case isTrue => cases h
    case isFalse hres =>
      split at h
      case h_1 => cases h
      case h_2 b hb =>
        split at h
        case isFalse => cases h
        case isTrue hlen =>
          have hid := bufOfId_eq_some_iff.mp hb
          have hadv := bitBool_toNat a 20
          exact ⟨b, bitBool a 20, a % 2 ^ 6, hlen, by omega, (Except.ok.inj h).symm⟩
  · rintro ⟨b, adv, len, hlen, rfl, rfl⟩
    have hadv := Bool.toNat_lt adv
    have hb : bufOfId ((b.id * 2 ^ 21 + adv.toNat * 2 ^ 20 + len) / 2 ^ 21) = some b :=
      bufOfId_eq_some_iff.mpr (by omega)
    have hl : (b.id * 2 ^ 21 + adv.toNat * 2 ^ 20 + len) % 2 ^ 6 = len := by omega
    rw [if_neg (by omega), hb]
    simp only
    rw [hl, if_pos hlen, bitBool_eq (y := adv) (by omega)]

/-! ### The decoder and the encoder -/

/-- Settles O1: the word's opcode selects the row of the command, and each field is read back from the
operand bits it was put in. -/
theorem decodeEncode : Obligations.DecodeEncode := by
  intro i hwf
  cases i
  case rdbits b adv len =>
    have hid := bufId_le_four b
    have hadv := Bool.toNat_lt adv
    have hlen : len ≤ 32 := of_decide_eq_true hwf
    refine (decode_commandWord (by decide) (by omega)).trans ((decodeOp_rdbits _).trans ?_)
    exact decodeRdbits_eq_ok_iff.mpr ⟨b, adv, len, hlen, rfl, rfl⟩
  case scf gr ch =>
    refine (decode_commandWord (by decide) (by omega)).trans (lowField_of_lt 2 (by omega) ?_)
    rw [bitFin_eq (x := gr) (by omega), bitFin_eq (x := ch) (by omega)]
  case hufpair gr ch tbl =>
    refine (decode_commandWord (by decide) (by omega)).trans (lowField_of_lt 7 (by omega) ?_)
    rw [bitFin_eq (x := gr) (by omega), bitFin_eq (x := ch) (by omega)]
    congr 1
    apply Fin.ext
    rw [Fin.val_ofNat]
    omega
  case hufquad gr ch sel =>
    have hsel := Bool.toNat_lt sel
    refine (decode_commandWord (by decide) (by omega)).trans (lowField_of_lt 3 (by omega) ?_)
    rw [bitFin_eq (x := gr) (by omega), bitFin_eq (x := ch) (by omega), bitBool_eq (y := sel) (by omega)]
  case spec gr ch =>
    refine (decode_commandWord (by decide) (by omega)).trans (lowField_of_lt 2 (by omega) ?_)
    rw [bitFin_eq (x := gr) (by omega), bitFin_eq (x := ch) (by omega)]
  case acinit dir =>
    have hdir := dir_bit_lt dir
    refine (decode_commandWord (by decide) (by omega)).trans (lowField_of_lt 1 (by omega) ?_)
    rw [dirOfBit_eq (dir := dir) (by omega)]
  case acencb y =>
    have hy := Bool.toNat_lt y
    refine (decode_commandWord (by decide) (by omega)).trans (lowField_of_lt 1 (by omega) ?_)
    rw [bitBool_eq (y := y) (by omega)]
  all_goals exact (decode_commandWord (by decide) (by decide)).trans (lowField_of_lt 0 (by decide) rfl)

/-- What the operand bits of an opcode decode to is well formed and encodes to that opcode over those
bits. -/
theorem encode_of_decodeOp {op a : Nat} {i : Instr} (h : decodeOp op a = .ok i) :
    i.wf = true ∧ encode i = commandWord op a := by
  unfold decodeOp at h
  split at h
  case h_5 =>
    obtain ⟨b, adv, len, hlen, rfl, rfl⟩ := decodeRdbits_eq_ok_iff.mp h
    exact ⟨decide_eq_true hlen, rfl⟩
  case h_9 | h_11 | h_12 | h_13 | h_14 | h_15 =>
    obtain ⟨ha, rfl⟩ := lowField_ok h
    refine ⟨rfl, congrArg (commandWord _) ?_⟩
    simp only [bitFin_val, bitBool_toNat, dirOfBit_bit, Fin.val_ofNat]
    omega
  case h_24 => cases h
  all_goals
    obtain ⟨ha, rfl⟩ := lowField_ok h
    exact ⟨rfl, congrArg (commandWord _) (Nat.lt_one_iff.mp ha).symm⟩

/-- Settles O2: a word is its opcode over its operand bits, and the decoder reads all of both. -/
theorem decodedWordIsTheEncoding : Obligations.DecodedWordIsTheEncoding := by
  intro w i h
  obtain ⟨hwf, henc⟩ := encode_of_decodeOp h
  exact ⟨hwf, henc.trans (commandWord_fields w)⟩

/-! ### The opcode map -/

/-- A word that matches a row agrees with its pattern on every field that the mask covers (R111). -/
theorem extractLsb'_of_fits {r : OpcodeRow} {w : Word} (hf : r.fits w = true) {start len : Nat}
    (hmask : r.mask.extractLsb' start len = BitVec.allOnes len) :
    w.extractLsb' start len = r.pattern.extractLsb' start len := by
  rw [← eq_of_beq hf, BitVec.extractLsb'_and, hmask, BitVec.and_allOnes]

theorem extractLsb'_opcode (w : Word) : (w.extractLsb' 24 8).toNat = w.toNat / 2 ^ 24 := by
  rw [BitVec.extractLsb'_toNat, Nat.shiftRight_eq_div_pow]
  omega

/-- The row of `RDBITS`, of format B (R111, R112). -/
def rdbitsRow : OpcodeRow := ⟨0x10000000, 0xFF0FFFC0⟩

/-- A row of a format whose `n` low bits are its operand bits (R111), with the command they make. -/
structure LowFormat (r : OpcodeRow) (n : Nat) (command : Nat → Instr) : Prop where
  width : n ≤ 24
  opcode : r.mask.extractLsb' 24 8 = BitVec.allOnes 8
  reserved : r.mask.extractLsb' n (24 - n) = BitVec.allOnes (24 - n)
  zero : r.pattern.extractLsb' n (24 - n) = 0
  decodes : ∀ a, decodeOp (r.pattern.extractLsb' 24 8).toNat a = lowField n a (command a)

/-- A word that matches a row of such a format decodes to the row's command. -/
theorem LowFormat.decode_of_fits {r : OpcodeRow} {n : Nat} {command : Nat → Instr}
    (hr : LowFormat r n command) {w : Word} (hf : r.fits w = true) :
    decode w = .ok (command (w.toNat % 2 ^ 24)) := by
  have hlt : w.toNat % 2 ^ 24 < 2 ^ n := by
    have h := congrArg BitVec.toNat ((extractLsb'_of_fits hf hr.reserved).trans hr.zero)
    rw [BitVec.extractLsb'_toNat, Nat.shiftRight_eq_div_pow] at h
    rw [show 2 ^ 24 = 2 ^ n * 2 ^ (24 - n) by rw [← pow_add, Nat.add_sub_cancel' hr.width]]
    exact Nat.lt_of_div_eq_zero (by positivity) ((Nat.mod_mul_right_div_self ..).trans h)
  unfold decode
  rw [← extractLsb'_opcode, extractLsb'_of_fits hf hr.opcode, hr.decodes, lowField_of_lt n hlt rfl]

/-- Every row of the map but `RDBITS`'s is of a format with low operand bits. -/
theorem opcodeRows_format {r : OpcodeRow} (hr : r ∈ opcodeRows) :
    r = rdbitsRow ∨ ∃ n command, LowFormat r n command := by
  simp only [opcodeRows, List.cons_append, List.nil_append, List.mem_cons, List.not_mem_nil, or_false] at hr
  rcases hr with h | h | h | h | h | h | h | h | h | h | h | h | h | h | h | h | h | h | h | h | h | h | h
  case inr.inr.inr.inr.inl => exact .inl h
  all_goals
    subst h
    exact .inr ⟨_, _, by decide, by decide, by decide, by decide, fun _ => rfl⟩

/-- A word with the opcode of `RDBITS` is read in format B. -/
theorem decode_of_rdbits_opcode {w : Word} (hop : w.extractLsb' 24 8 = 0x10) :
    decode w = decodeRdbits (w.toNat % 2 ^ 24) := by
  unfold decode
  rw [← extractLsb'_opcode, hop]
  exact decodeOp_rdbits _

/-- The statements of `MatchesRow`, one for each command, as one. -/
theorem encode_matchesRow : ∀ i : Instr, MatchesRow.Statement i
  | .nop => MatchesRow.nop
  | .srst => MatchesRow.srst
  | .clrerr => MatchesRow.clrerr
  | .sinit => MatchesRow.sinit
  | .rdbits b adv len => MatchesRow.rdbits b adv len
  | .hdr => MatchesRow.hdr
  | .side => MatchesRow.side
  | .resv => MatchesRow.resv
  | .scf gr ch => MatchesRow.scf gr ch
  | .adv => MatchesRow.adv
  | .hufpair gr ch tbl => MatchesRow.hufpair gr ch tbl
  | .hufquad gr ch sel => MatchesRow.hufquad gr ch sel
  | .spec gr ch => MatchesRow.spec gr ch
  | .acinit dir => MatchesRow.acinit dir
  | .acencb y => MatchesRow.acencb y
  | .acdecb => MatchesRow.acdecb
  | .acflush => MatchesRow.acflush
  | .acenc => MatchesRow.acenc
  | .acdec => MatchesRow.acdec
  | .ser => MatchesRow.ser
  | .emit => MatchesRow.emit
  | .frame => MatchesRow.frame
  | .run => MatchesRow.run

/-- The word of a well-formed command matches a row of the map (R111, R112). -/
theorem encode_fits_row {i : Instr} (hwf : i.wf = true) : ∃ r ∈ opcodeRows, r.fits (encode i) = true := by
  have hrow : MatchesRow.row i ∈ opcodeRows := by cases i <;> simp [MatchesRow.row, opcodeRows]
  exact ⟨_, hrow, (Bool.and_eq_true_iff.mp (encode_matchesRow i hwf)).1⟩

/-- The fields `buf` and `len` of a word, in its operand bits (R111, format B). -/
theorem rdbits_fields (w : Word) : (w.extractLsb' 21 3).toNat = w.toNat % 2 ^ 24 / 2 ^ 21 ∧
    (w.extractLsb' 6 14).toNat = w.toNat % 2 ^ 24 / 2 ^ 6 % 2 ^ 14 ∧
    (w.extractLsb' 0 6).toNat = w.toNat % 2 ^ 24 % 2 ^ 6 := by
  simp only [BitVec.extractLsb'_toNat, Nat.shiftRight_eq_div_pow]
  omega

theorem legalWord_of_decode {w : Word} {i : Instr} (h : decode w = .ok i) : legalWord w := by
  constructor
  · obtain ⟨hwf, rfl⟩ := decodedWordIsTheEncoding w i h
    exact encode_fits_row hwf
  · intro hop
    rw [decode_of_rdbits_opcode hop] at h
    obtain ⟨b, adv, len, hlen, hbits, -⟩ := decodeRdbits_eq_ok_iff.mp h
    obtain ⟨hbuf, -, hlow⟩ := rdbits_fields w
    have hid := bufId_le_four b
    have hadv := Bool.toNat_lt adv
    rw [BitVec.le_def, BitVec.le_def, hbuf, hlow, ← hbits]
    change _ ≤ 4 ∧ _ ≤ 32
    omega

theorem exists_decode_of_legalWord {w : Word} (h : legalWord w) : ∃ i, decode w = .ok i := by
  obtain ⟨⟨r, hr, hf⟩, hrdbits⟩ := h
  rcases opcodeRows_format hr with rfl | ⟨n, command, hlow⟩
  · have hop : w.extractLsb' 24 8 = 0x10 := extractLsb'_of_fits hf (by decide)
    have hres : w.extractLsb' 6 14 = 0 := extractLsb'_of_fits hf (by decide)
    obtain ⟨hbuf, hlen⟩ := hrdbits hop
    obtain ⟨ebuf, eres, elen⟩ := rdbits_fields w
    rw [BitVec.le_def, ebuf] at hbuf
    rw [BitVec.le_def, elen] at hlen
    rw [hres] at eres
    obtain ⟨b, hb⟩ := exists_bufId hbuf
    refine ⟨_, (decode_of_rdbits_opcode hop).trans (decodeRdbits_eq_ok_iff.mpr
      ⟨b, bitBool (w.toNat % 2 ^ 24) 20, w.toNat % 2 ^ 24 % 2 ^ 6, hlen, ?_, rfl⟩)⟩
    rw [bitBool_toNat]
    change 0 = _ at eres
    omega
  · exact ⟨_, hlow.decode_of_fits hf⟩

/-- Settles O3: a word that decodes is the word of a well-formed command, which matches its row; and a word
that matches a row has every reserved bit 0. -/
theorem legalWordsDecode : Obligations.LegalWordsDecode :=
  fun _ => ⟨exists_decode_of_legalWord, fun ⟨_, h⟩ => legalWord_of_decode h⟩

/-- Settles O5: each is the word that the encoder gives the well-formed command it stands for (R114). -/
theorem exampleWordsDecode : Obligations.ExampleWordsDecode :=
  ⟨decodeEncode (.rdbits .ibuf true 12) rfl, decodeEncode (.rdbits .mdbuf false 32) rfl,
    decodeEncode (.scf 1 0) rfl, decodeEncode (.hufpair 0 1 24) rfl, decodeEncode (.hufquad 1 0 true) rfl,
    decodeEncode (.acinit .decode) rfl, decodeEncode (.acencb true) rfl, decodeEncode .run rfl⟩

end Sys2Proof.Machine

/-! ## The bit reader (40_control_and_bitreader.md R164, R165) -/

namespace Sys2Proof.Machine

open Sys2Proof.Reference

/-! ### The bits read and the buffer as one numeral -/

/-- The first bits of a byte are its high bits (00_scope.md R8). -/
theorem Buffer.bits_in_byte (b : Buffer) (a : Nat) {k : Nat} (h : k ≤ 8) :
    b.bits (8 * a) k = (b.read a).toNat / 2 ^ (8 - k) := by
  induction k with
  | zero =>
    rw [Buffer.bits_zero, Nat.div_eq_of_lt (b.read a).isLt]
  | succ k ih =>
    have hbit : (b.bit (8 * a + k)).toNat = (b.read a).toNat / 2 ^ (7 - k) % 2 := by
      rw [Buffer.bit_toNat, show (8 * a + k) / 8 = a by omega, show (8 * a + k) % 8 = k by omega]
    rw [Buffer.bits_succ, ih (by omega), hbit, show 8 - k = (7 - k) + 1 by omega,
      show 8 - (k + 1) = 7 - k by omega, Nat.pow_succ, ← Nat.div_div_eq_div_mul]
    exact Nat.div_add_mod _ 2

/-- Eight bits at a byte's first bit are the byte. -/
theorem Buffer.bits_byte (b : Buffer) (a : Nat) : b.bits (8 * a) 8 = (b.read a).toNat := by
  rw [b.bits_in_byte a (Nat.le_refl 8), Nat.sub_self, Nat.pow_zero, Nat.div_one]

/-- The bits of the first bytes are those bytes as one big-endian numeral. -/
theorem Buffer.bits_zero_bytes (b : Buffer) (n : Nat) :
    b.bits 0 (8 * n) = (b.slice 0 n).foldl (fun acc v => acc * 256 + v.toNat) 0 := by
  induction n with
  | zero => rfl
  | succ n ih =>
    have hslice : b.slice 0 (n + 1) = b.slice 0 n ++ [b.read n] := by
      simp [Buffer.slice, List.range_succ]
    rw [Nat.mul_succ, Buffer.bits_add, Nat.zero_add, Buffer.bits_byte, ih, hslice, List.foldl_concat,
      show 2 ^ 8 = 256 from rfl]

theorem numeral_eq_bits (b : Buffer) : numeral b = b.bits 0 (8 * b.len) := (b.bits_zero_bytes b.len).symm

/-- Bits read beyond the end are 0 (R164). -/
theorem Buffer.bits_of_ge {b : Buffer} {off : Nat} (h : 8 * b.len ≤ off) (n : Nat) : b.bits off n = 0 := by
  induction n with
  | zero => rfl
  | succ n ih => rw [Buffer.bits_succ, ih, Buffer.bit_of_ge (by omega), Bool.toNat_false]

/-- A read of the whole buffer and some bits more is its numeral extended by zeros. -/
theorem Buffer.bits_zero_total {b : Buffer} {total : Nat} (h : 8 * b.len ≤ total) :
    b.bits 0 total = numeral b * 2 ^ (total - 8 * b.len) := by
  calc b.bits 0 total = b.bits 0 (8 * b.len + (total - 8 * b.len)) := by rw [Nat.add_sub_cancel' h]
    _ = numeral b * 2 ^ (total - 8 * b.len) := by
      rw [Buffer.bits_add, b.bits_of_ge (off := 0 + 8 * b.len) (by omega), numeral_eq_bits, Nat.add_zero]

/-- A read is a slice of any longer read: the bits behind it divided away, the bits before it cut off. -/
theorem Buffer.bits_eq_slice (b : Buffer) {off n total : Nat} (h : off + n ≤ total) :
    b.bits off n = b.bits 0 total / 2 ^ (total - off - n) % 2 ^ n := by
  obtain ⟨m, rfl⟩ := Nat.exists_eq_add_of_le h
  have hbefore : b.bits 0 (off + n + m) / 2 ^ m = b.bits 0 (off + n) := by
    rw [Buffer.bits_add, Nat.mul_comm, Nat.mul_add_div (Nat.two_pow_pos m),
      Nat.div_eq_of_lt (Buffer.bits_lt _ _ _), Nat.add_zero]
  rw [show off + n + m - off - n = m by omega, hbefore, Buffer.bits_add, Nat.zero_add,
    Nat.mul_add_mod_self_right, Nat.mod_eq_of_lt (Buffer.bits_lt _ _ _)]

/-- Settles O17: the read is a slice of the read of all `T` bits, which is the extended numeral. -/
theorem bitsAreTheBigEndianSlice : Obligations.BitsAreTheBigEndianSlice := by
  intro b off n total hfit hlen
  rw [← Buffer.bits_zero_total hlen]
  exact b.bits_eq_slice hfit

/-! ### `RDBITS` -/

theorem accepted_eq (s : State) : accepted s = accept s := rfl

theorem exec_rdbits {len : Nat} (h : len ≤ 32) (b : BufId) (adv : Bool) (s : State) :
    exec (.rdbits b adv len) s = .next (rdbitsBody b adv len (accept s)) := by
  change execRdbits b adv len s = _
  unfold execRdbits
  rw [if_pos h, always_eq]

/-- A word longer than 32 bits, which no command word carries, is an illegal command (30_encoding.md R113). -/
theorem exec_rdbits_of_lt {len : Nat} (h : 32 < len) (b : BufId) (adv : Bool) (s : State) :
    exec (.rdbits b adv len) s = .next (illegalCommand (encode (.rdbits b adv len)) (accept s)) := by
  change execRdbits b adv len s = _
  unfold execRdbits
  rw [if_neg (Nat.not_le_of_lt h)]

/-- The body of `RDBITS` is the rule's two lines with the bit loop of `ReadBits` (R164, R165). It notes the
missing bit after them, where the rule raises before them: `raise` looks neither at `RES` nor at `CUR`. -/
theorem reference_rdbits_eq (b : BufId) (adv : Bool) (len : Nat) (s : State) :
    rdbits b adv len s = rdbitsBody b adv len s := by
  unfold rdbits rdbitsBody
  rw [readBits_eq]
  cases (s.buf b).missing s.cur.toNat len with
  | none => cases adv <;> rfl
  | some off => cases adv <;> rfl

/-- Settles O16: from its acceptance on the command is the rule's two lines. -/
theorem rdbitsReadsBitByBit : Obligations.RdbitsReadsBitByBit := by
  intro b adv len s hlen
  rw [exec_rdbits hlen, reference_rdbits_eq, accepted_eq]

end Sys2Proof.Machine

/-! ## The control commands (40_control_and_bitreader.md R160 to R163) -/

namespace Sys2Proof.Machine

theorem exec_nop (s : State) : exec .nop s = .next (accept s) := rfl

theorem exec_srst (s : State) : exec .srst s = .next (srstBody (accept s)) := rfl

theorem exec_clrerr (s : State) : exec .clrerr s = .next (clearErrors (accept s)) := rfl

theorem exec_sinit (s : State) : exec .sinit s = .next (sinitBody (accept s)) := rfl

/-- Settles O12: `NOP` is its acceptance, and `CLRERR` clears `ERR` besides. -/
theorem nopAndClrerrComplete : Obligations.NopAndClrerrComplete := fun s =>
  ⟨exec_nop s, exec_clrerr s⟩

/-- Settles O15: `SINIT` is its acceptance and the assignments of R163. -/
theorem sinitStartsAStream : Obligations.SinitStartsAStream := exec_sinit

/-- Of the control registers a soft reset keeps only `CFG_MODEL`, `CFG_NREG`, `START_OFF` and `IN_LEN` (R161). -/
theorem srstBody_controlReg (s : State) {n : Nat} (hkept : n ≠ 5 ∧ n ≠ 6 ∧ n ≠ 7 ∧ n ≠ 8) :
    (srstBody s).controlReg n = State.reset.controlReg n := by
  obtain ⟨hmodel, hnreg, hstart, hlen⟩ := hkept
  unfold State.controlReg
  split
  case h_5 => exact absurd rfl hmodel
  case h_6 => exact absurd rfl hnreg
  case h_7 => exact absurd rfl hstart
  case h_8 => exact absurd rfl hlen
  all_goals rfl

/-- What the host reads after a soft reset, the four kept registers aside, is what it reads after power-on
reset (R161, 70_reset_and_hazards.md R390). -/
theorem srstBody_regRead (s : State) {n : Nat} (hkept : n ≠ 5 ∧ n ≠ 6 ∧ n ≠ 7 ∧ n ≠ 8) :
    (srstBody s).regRead n = State.reset.regRead n := by
  by_cases hcontrol : n < 0x20
  · rw [regRead_control _ hcontrol, regRead_control _ hcontrol, srstBody_controlReg s hkept]
  · unfold State.regRead
    rw [if_neg hcontrol, if_neg hcontrol]
    rfl

/-- Settles O13: the five items are kept by definition, every other part is that of the reset state. -/
theorem srstLeavesTheResetState : Obligations.SrstLeavesTheResetState := fun s =>
  ⟨srstBody (accept s), exec_srst s, rfl, rfl, rfl, rfl, rfl,
    fun _ hmodel hnreg hstart hlen => srstBody_regRead _ ⟨hmodel, hnreg, hstart, hlen⟩,
    rfl, rfl, rfl, rfl, Memory.read_nil, Memory.read_nil, Memory.read_nil, Memory.read_nil⟩

end Sys2Proof.Machine

/-! ## What the control and parser commands leave unchanged -/

namespace Sys2Proof.Machine

/-- Acceptance adds `LASTERR` and `ERRINFO` to the parts that a command's body writes (30_encoding.md R110). -/
theorem unchangedBut_of_accept {l w : List Part} {s t : State} (h : unchangedBut l (accept s) t)
    (hw : ∀ p ∈ [.lastErr, .errInfo] ++ l, p ∈ w) : unchangedBut w s t := by
  obtain ⟨haccept, hbody⟩ := List.forall_mem_append.mp hw
  exact unchangedBut_trans (unchangedBut_mono (accept_unchanged s) haccept) (unchangedBut_mono h hbody)

/-- A command without a precondition writes what acceptance and its body write. -/
theorem always_unchanged {l w : List Part} {body : State → State} {s t : State}
    (he : always body s = .next t) (hbody : ∀ s, unchangedBut l s (body s))
    (hw : ∀ p ∈ [.lastErr, .errInfo] ++ l, p ∈ w) : unchangedBut w s t := by
  cases he
  exact unchangedBut_of_accept (hbody _) hw

/-- A command with a precondition writes what its body writes, and the error registers, where
`SequenceError` is recorded if the precondition fails (60_exceptions.md R360). -/
theorem guarded_unchanged {i : Instr} {pre : State → Bool} {l w : List Part} {body : State → State}
    {s t : State} (he : guarded i pre body s = .next t) (hbody : ∀ s, unchangedBut l s (body s))
    (hw : ∀ p ∈ Part.errors ++ l, p ∈ w) : unchangedBut w s t := by
  obtain ⟨herr, hbodyParts⟩ := List.forall_mem_append.mp hw
  have haccept : ∀ p ∈ [Part.lastErr, .errInfo], p ∈ w := fun p hp => herr p (List.mem_cons_of_mem _ hp)
  rcases guarded_cases he with ⟨-, rfl⟩ | ⟨-, rfl⟩
  · exact unchangedBut_of_accept (hbody _) (List.forall_mem_append.mpr ⟨haccept, hbodyParts⟩)
  · exact unchangedBut_of_accept (raise_unchanged _ _ _) (List.forall_mem_append.mpr ⟨haccept, herr⟩)

theorem writes_rdbits (b : BufId) (adv : Bool) (len : Nat) :
    writes (.rdbits b adv len) = Part.errors ++ if adv then [.res, .cur] else [.res] := rfl

theorem writes_scf (gr ch : Fin 2) : writes (.scf gr ch) = Part.errors ++ [.p2start, .cur, .scfL, .scfS] := rfl

theorem exec_rdbits_unchanged {b : BufId} {adv : Bool} {len : Nat} {s t : State}
    (he : exec (.rdbits b adv len) s = .next t) : unchangedBut (writes (.rdbits b adv len)) s t := by
  rw [writes_rdbits]
  by_cases hlen : len ≤ 32
  · rw [exec_rdbits hlen] at he
    exact always_unchanged he (rdbitsBody_unchanged b adv len) (by cases adv <;> decide)
  · rw [exec_rdbits_of_lt (Nat.lt_of_not_le hlen)] at he
    exact always_unchanged he (raise_unchanged .illegalCommand _) (by cases adv <;> decide)

/-- Settles O49: each command's body writes what its rule names, and acceptance and a failed precondition
write error registers only. -/
theorem controlAndParserFrames : Obligations.ControlAndParserFrames := by
  intro s t
  refine ⟨fun he => ?nop, fun he => ?srst, fun he => ?clrerr, fun he => ?sinit,
    fun b adv len => exec_rdbits_unchanged, fun he => ?hdr, fun he => ?side, fun he => ?resv,
    fun gr ch he => ?scf, fun he => ?adv⟩
  case nop => exact always_unchanged (body := id) he (unchangedBut_refl []) (by decide)
  case srst => exact always_unchanged (body := srstBody) he srstBody_unchanged (by decide)
  case clrerr => exact always_unchanged (body := clearErrors) he clearErrors_unchanged (by decide)
  case sinit => exact always_unchanged (body := sinitBody) he sinitBody_unchanged (by decide)
  case hdr => exact always_unchanged (body := hdrBody) he hdrBody_unchanged (by decide)
  case side => exact guarded_unchanged (i := .side) (pre := sidePre) he sideBody_unchanged (by decide)
  case resv => exact guarded_unchanged (i := .resv) (pre := (·.siValid)) he resvBody_unchanged (by decide)
  case scf =>
    rw [writes_scf]
    exact guarded_unchanged (i := .scf gr ch) (pre := granulePre ch) he (scfBody_unchanged gr ch) (by decide)
  case adv => exact guarded_unchanged (i := .adv) (pre := (·.hValid)) he advBody_unchanged (by decide)

end Sys2Proof.Machine

/-! ## The frame header (41_frame_parser.md R182, R183, R185) -/

namespace Sys2Proof.Machine

/-! ### `HDR` (R182) -/

theorem exec_hdr (s : State) : exec .hdr s = .next (hdrBody (accept s)) := rfl

/-- The tests of R182, one after another, are the model's one test. -/
theorem headerRejected_iff (w : Word) :
    headerRejected w = true ↔
      w.extractLsb' 21 11 ≠ 0x7FF ∨ w.extractLsb' 19 2 = 1 ∨ w.extractLsb' 17 2 = 0 ∨
        w.extractLsb' 12 4 = 0 ∨ w.extractLsb' 12 4 = 15 ∨ w.extractLsb' 10 2 = 3 := by
  simp only [headerRejected, field, Bool.or_eq_true, bne_iff_ne, beq_iff_eq, ne_eq, BitVec.toNat_eq,
    or_assoc]
  rfl

theorem ofNat_one_sub_toNat (b : BitVec 1) : BitVec.ofNat 1 (1 - b.toNat) = 1 - b := by
  revert b
  decide

/-- The state `HDR` goes on from once it has read the header word (R182). -/
def State.headerRead (s : State) : State := noteMissing (s.ibuf.missing (8 * s.foff.toNat) 32) (clearValid s)

/-- On a rejected word only `H_RAW` changes besides the valid bits (R182). -/
theorem hdrBody_of_rejected {s : State} (h : headerRejected s.headerWord = true) :
    hdrBody s = raise .invalidFrame s.headerRead.foff.toNat
      { s.headerRead with hdr := { s.headerRead.hdr with hRaw := s.headerWord } } := if_pos h

theorem hdrBody_of_accepted {s : State} (h : headerRejected s.headerWord = false) :
    hdrBody s = { s.headerRead with hdr := parseHeader s.headerRead.cfg s.headerWord, hValid := true } :=
  if_neg (by simp [h])

/-- `ReadBits(IBUF, 8 * FOFF, 32)` of R182, after the valid bits are cleared. -/
theorem readBits_headerWord (s : State) :
    Reference.readBits .ibuf (8 * s.foff.toNat) 32 (clearValid s) =
      (s.ibuf.bits (8 * s.foff.toNat) 32, s.headerRead) := Reference.readBits_eq _ _ _ _

/-- The rule writes `H_RAW` before it tests the word; on an accepted word the parsed header replaces all of it
(R182). -/
theorem reference_hdr_eq (s : State) : Reference.hdr s = hdrBody s := by
  unfold Reference.hdr
  extract_lets cleared r w read readHdr raw
  obtain ⟨hword, hraw⟩ : w = s.headerWord ∧
      raw = { s.headerRead with hdr := { s.headerRead.hdr with hRaw := s.headerWord } } := by
    have hr : r = (s.ibuf.bits (8 * s.foff.toNat) 32, s.headerRead) := readBits_headerWord s
    have hw : w = s.headerWord := by simp only [w, hr, State.headerWord]
    have hs : read = s.headerRead := by simp only [read, hr]
    exact ⟨hw, by rw [← hs, ← hw]⟩
  clear_value raw w
  subst hword hraw
  by_cases hrej : headerRejected s.headerWord = true
  case pos =>
    have hcases := (headerRejected_iff s.headerWord).mp hrej
    rw [hdrBody_of_rejected hrej]
    split
    · rfl
    · rename_i hsync
      exact if_pos (hcases.resolve_left hsync)
  case neg =>
    have hcases := (headerRejected_iff s.headerWord).not.mp hrej
    obtain ⟨hsync, hfield⟩ := not_or.mp hcases
    rw [hdrBody_of_accepted (by simpa using hrej), if_neg hsync]
    refine (if_neg hfield).trans ?_
    have hcrc := ofNat_one_sub_toNat (s.headerWord.extractLsb' 16 1)
    have hchannels : s.headerWord.extractLsb' 6 2 = 3 ↔ field s.headerWord 6 2 = 3 := BitVec.toNat_eq
    simp only [hcrc, hchannels]
    rfl

/-- Settles O18: the rule and the body read the same word, and the two cases of the test agree. -/
theorem hdrParsesTheHeader : Obligations.HdrParsesTheHeader := by
  intro s
  rw [exec_hdr, accepted_eq, reference_hdr_eq]

/-! ### The size of a frame (R183, R185) -/

/-- The size of a frame without padding under the default tables (R185). -/
def defaultBaseSize (ver layer bri sri : Nat) : Nat :=
  Config.default.spf ver layer / 8 * (1000 * Config.default.bitrate ver layer bri) / Config.default.srate ver sri

/-- What the default tables of R183 give for an accepted version, layer, bitrate index and sampling-rate index:
the rates fit their registers, and the frame without padding is within the bounds of R185. -/
structure DefaultRatesFit (ver layer bri sri : Nat) : Prop where
  bitrate : 1000 * Config.default.bitrate ver layer bri < 2 ^ 19
  srate : Config.default.srate ver sri < 2 ^ 16
  size : 24 ≤ defaultBaseSize ver layer bri sri ∧ defaultBaseSize ver layer bri sri ≤ 2880
  supported : ver = 3 → layer = 3 →
    96 ≤ defaultBaseSize ver layer bri sri ∧ defaultBaseSize ver layer bri sri ≤ 1440

/-! The entries of the default tables of R183, index by index: 14 bitrates and 3 sampling rates for each version
and layer. -/

theorem default_bitrate_le : ∀ ver < 4, ∀ layer < 4, ∀ bri < 16,
    Config.default.bitrate ver layer bri ≤ 448 := by
  decide

theorem default_srate_le : ∀ ver < 4, ∀ sri < 4, Config.default.srate ver sri ≤ 48000 := by decide

theorem default_size_bounds : ∀ ver ∈ [0, 2, 3], ∀ layer ∈ [1, 2, 3], ∀ bri < 15, bri ≠ 0 → ∀ sri < 3,
    24 ≤ defaultBaseSize ver layer bri sri ∧ defaultBaseSize ver layer bri sri ≤ 2880 := by
  decide

theorem default_supported_size_bounds : ∀ bri < 15, bri ≠ 0 → ∀ sri < 3,
    96 ≤ defaultBaseSize 3 3 bri sri ∧ defaultBaseSize 3 3 bri sri ≤ 1440 := by
  decide

theorem field_lt (w : Word) (lo n : Nat) : field w lo n < 2 ^ n := (w.extractLsb' lo n).isLt

theorem fields_of_accepted {w : Word} (h : headerRejected w = false) :
    field w 19 2 ≠ 1 ∧ field w 17 2 ≠ 0 ∧ field w 12 4 ≠ 0 ∧ field w 12 4 ≠ 15 ∧ field w 10 2 ≠ 3 := by
  simp only [headerRejected, Bool.or_eq_false_iff, beq_eq_false_iff_ne] at h
  obtain ⟨⟨⟨⟨⟨-, hver⟩, hlay⟩, hbri⟩, hbri'⟩, hsri⟩ := h
  exact ⟨hver, hlay, hbri, hbri', hsri⟩

/-- The indices of an accepted word have entries in the header tables (R182). -/
theorem defaultRatesFit_of_accepted {w : Word} (h : headerRejected w = false) :
    DefaultRatesFit (field w 19 2) (4 - field w 17 2) (field w 12 4) (field w 10 2) := by
  obtain ⟨hver, hlay, hbriFree, hbriBad, hsri⟩ := fields_of_accepted h
  have hverLt := field_lt w 19 2
  have hlayLt := field_lt w 17 2
  have hbriLt := field_lt w 12 4
  have hsriLt := field_lt w 10 2
  have hbitrate := default_bitrate_le _ hverLt (4 - field w 17 2) (by omega) _ hbriLt
  have hsrate := default_srate_le _ hverLt _ hsriLt
  refine ⟨by omega, by omega, ?_, fun hv hl => ?_⟩
  · exact default_size_bounds _ (by simp; omega) _ (by simp; omega) _ (by omega) hbriFree _ (by omega)
  · rw [hv, hl]
    exact default_supported_size_bounds _ (by omega) hbriFree _ (by omega)

/-- The layer of an accepted word is 1, 2 or 3, which its register holds. -/
theorem parseHeader_layer_toNat {w : Word} (c : Config) (h : headerRejected w = false) :
    (parseHeader c w).layer.toNat = 4 - field w 17 2 := by
  obtain ⟨-, hlay, -⟩ := fields_of_accepted h
  simp only [parseHeader, BitVec.toNat_ofNat]
  omega

/-- Settles O19: under the default tables no register of the formula wraps, and the bounds are those of the
table entries with and without padding. -/
theorem frameSizeIsTheFloorFormula : Obligations.FrameSizeIsTheFloorFormula := by
  refine ⟨fun w hok => ?_, by decide, by decide⟩
  intro hd
  obtain ⟨hbitrateFits, hsrateFits, ⟨hlo, hhi⟩, hsupp⟩ := defaultRatesFit_of_accepted hok
  have hlayer : hd.layer.toNat = 4 - field w 17 2 := parseHeader_layer_toNat Config.default hok
  have hpad : hd.padding.toNat < 2 := hd.padding.isLt
  have hbitrate : hd.bitrate.toNat =
      1000 * Config.default.bitrate (field w 19 2) (4 - field w 17 2) (field w 12 4) :=
    (BitVec.toNat_ofNat _ _).trans (Nat.mod_eq_of_lt hbitrateFits)
  have hsrate : hd.srate.toNat = Config.default.srate (field w 19 2) (field w 10 2) :=
    (BitVec.toNat_ofNat _ _).trans (Nat.mod_eq_of_lt hsrateFits)
  have hformula : Config.default.spf hd.version.toNat hd.layer.toNat / 8 * hd.bitrate.toNat / hd.srate.toNat =
      defaultBaseSize (field w 19 2) (4 - field w 17 2) (field w 12 4) (field w 10 2) := by
    rw [hlayer, hbitrate, hsrate]
    rfl
  have hsize : hd.frameSize.toNat = (Config.default.spf hd.version.toNat hd.layer.toNat / 8 *
      hd.bitrate.toNat / hd.srate.toNat + hd.padding.toNat) % 2 ^ 12 := by
    rw [hlayer]
    exact BitVec.toNat_ofNat _ _
  rw [hformula] at hsize ⊢
  refine ⟨by omega, by omega, by omega, fun hver hlay => ?_⟩
  have := hsupp (congrArg BitVec.toNat hver) (hlayer.symm.trans (congrArg BitVec.toNat hlay))
  omega

end Sys2Proof.Machine

/-! ## `SIDE` (R190) -/

namespace Sys2Proof.Reference

open Sys2Proof.Machine

/-- What the reads of `SIDE` find in a frame of `n` channels at bit `pos` (30_encoding.md R123). -/
def sideFieldsAt (n : Nat) (old : SideBlocks) (b : Buffer) (pos : Nat) : SideFields where
  mdb := b.bits pos 9
  priv := b.bits (pos + 9) (privateBits n)
  scfsi := ((List.range (4 * n)).map fun k => (b.bit (pos + 9 + privateBits n + k)).toNat * 2 ^ k).sum
  si :=
    { g0c0 := sideBlockOf b pos n 0 0 old.g0c0
      g0c1 := sideBlockOf b pos n 0 1 old.g0c1
      g1c0 := sideBlockOf b pos n 1 0 old.g1c0
      g1c1 := sideBlockOf b pos n 1 1 old.g1c1 }

/-- Field after field the reads of `SIDE` move over the whole side information (R190). -/
theorem reads_sideFields {n : Nat} (h : n = 1 ∨ n = 2) (old : SideBlocks) :
    Reads (sideFields (n == 2) old) (sideBits n) (sideFieldsAt n old) := by
  have hreads := fun two =>
    reads_bind (reads_r 9) fun mdb =>
    reads_bind (reads_r (if two then 3 else 5)) fun priv =>
    reads_bind (reads_flags (if two then 8 else 4)) fun scfsi =>
    reads_bind (reads_sideBlockIf true old.g0c0.nzc) fun g0c0 =>
    reads_bind (reads_sideBlockIf two old.g0c1.nzc) fun g0c1 =>
    reads_bind (reads_sideBlockIf true old.g1c0.nzc) fun g1c0 =>
    reads_bind (reads_sideBlockIf two old.g1c1.nzc) fun g1c1 =>
    reads_pure (⟨mdb, priv, scfsi, ⟨g0c0, g0c1, g1c0, g1c1⟩⟩ : SideFields)
  intro pos s
  rcases h with rfl | rfl
  · exact hreads false pos s
  · exact hreads true pos s

/-- `SIDE` of the rule writes the registers after its last read, the body notes the missing bit after them. -/
theorem side_eq {s : State} (h : s.hdr.channels = 1 ∨ s.hdr.channels = 2) : side s = sideBody s := by
  have hn : s.channels = 1 ∨ s.channels = 2 := by
    unfold State.channels
    rcases h with h | h <;> rw [h] <;> decide
  have htwo : (s.hdr.channels == 2) = (s.channels == 2) := by
    unfold State.channels
    rcases h with h | h <;> rw [h] <;> decide
  have hreads := reads_sideFields hn s.si s.sidePos s
  rw [← htwo] at hreads
  unfold side
  extract_lets pos f read
  have hf : f = _ := hreads
  have hread : read = f.2.2 := rfl
  clear_value read f
  rw [hread, hf]
  simp only [sideFieldsAt, sideBody, siField, Nat.add_zero, readScfsi]
  cases s.ibuf.missing s.sidePos (sideBits s.channels) <;> rfl

end Sys2Proof.Reference

namespace Sys2Proof.Machine

theorem exec_side {s : State} (hv : s.hValid = true) (hver : s.hdr.version = 3) (hlay : s.hdr.layer = 3) :
    exec .side s = .next (sideBody (accept s)) := by
  have hpre : sidePre (accept s) = true := by
    simp [sidePre, State.supported, hv, hver, hlay]
  exact guarded_of_pre (i := .side) hpre

/-- Settles O20: the reads of the rule find what the body stores. -/
theorem sideReadsTheFieldsInOrder : Obligations.SideReadsTheFieldsInOrder := by
  intro s hv hver hlay hchannels
  rw [exec_side hv hver hlay, accepted_eq, Reference.side_eq (s := accept s) hchannels]

end Sys2Proof.Machine

/-! ## `RESV` (R199, R200) -/

namespace Sys2Proof.Machine

/-- The main data of the frame itself (R199). -/
def State.ownBytes (s : State) : List Byte :=
  copyBytes s.ibuf (s.foff.toNat + s.prefixLen) (s.foff.toNat + s.hdr.frameSize.toNat)

/-- The state `RESV` goes on from once it has copied the frame's own main data (R199). -/
def State.ownCopied (s : State) : State :=
  noteMissing (copyMissing s.ibuf (s.foff.toNat + s.prefixLen) (s.foff.toNat + s.hdr.frameSize.toNat)) s

/-- The walk of `RESV` through the whole history (R199, R200). -/
def State.walk (s : State) : Option (Nat × List (Nat × Nat)) :=
  reservoirWalk s.mdb.toNat s.prefixLen s.ring s.foff.toNat 0 []

theorem State.ownBytes_length (s : State) : s.ownBytes.length = s.hdr.frameSize.toNat - s.prefixLen := by
  rw [State.ownBytes, copyBytes, Buffer.slice_length]
  omega

theorem resvBody_of_mdb_zero {s : State} (h : s.mdb = 0) :
    resvBody s = { s.ownCopied with mdbuf := Buffer.ofBytes s.ownBytes, mdValid := true, cur := 0 } := by
  have hmdb : s.ownCopied.mdb = 0 := by rw [State.ownCopied, noteMissing_mdb, h]
  exact if_pos hmdb

/-- The two ends of the walk where `main_data_begin` is not 0 (R199, R200). -/
theorem resvBody_of_mdb_ne_zero {s : State} (h : s.mdb ≠ 0) :
    resvBody s =
      match s.walk with
      | none =>
        { raise .reservoirInconsistency s.foff.toNat s.ownCopied with
          mdbuf := Buffer.empty, mdValid := false, cur := 0 }
      | some (acc, parts) =>
        { noteCopies s.ibuf parts s.ownCopied with
          mdbuf := Buffer.ofBytes
            ((parts.flatMap fun r => copyBytes s.ibuf r.1 r.2).drop (acc - s.mdb.toNat) ++ s.ownBytes)
          mdValid := true
          cur := 0 } := by
  have hmdb : s.ownCopied.mdb = s.mdb := noteMissing_mdb _ _
  have hring : s.ownCopied.ring = s.ring := noteMissing_ring _ _
  have hibuf : s.ownCopied.ibuf = s.ibuf := noteMissing_ibuf _ _
  unfold resvBody
  extract_lets p foff stop own u
  have hu : u = s.ownCopied := rfl
  clear_value u
  subst hu
  rw [if_neg (hmdb ▸ h), hmdb, hring, hibuf]
  rfl

/-- Noting the copies neither reads nor writes `MDBUF`. -/
theorem noteCopies_setMdbuf (b x : Buffer) (parts : List (Nat × Nat)) (s : State) :
    noteCopies b parts { s with mdbuf := x } = { noteCopies b parts s with mdbuf := x } := by
  induction parts generalizing s with
  | nil => rfl
  | cons p parts ih =>
    rw [noteCopies_cons, noteCopies_cons, ← ih]
    cases copyMissing b p.1 p.2 <;> rfl

end Sys2Proof.Machine

namespace Sys2Proof.Reference

open Sys2Proof.Machine

/-- The frame's own main data is copied as the model copies it (R199). -/
theorem copy_own (s : State) :
    copy (s.foff.toNat + s.hdr.frameSize.toNat - (s.foff.toNat + s.prefixLen)) (s.foff.toNat + s.prefixLen) s =
      (s.ownBytes, s.ownCopied) := by
  rw [copy_eq, copyMissing_sub]
  rfl

theorem resvLoop_eq_walk (s : State) :
    resvLoop s.mdb.toNat s.prefixLen s.ring (s.ring.length + 1) 0 0 s.foff.toNat [] = s.walk :=
  resvLoop_eq _ _ _ 0 _ _ _ (Nat.zero_le _) _ (by omega)

/-- The older frames' main data is copied as the model copies it, with `MDBUF` emptied before (R199). -/
theorem copies_older (s : State) (parts : List (Nat × Nat)) :
    copies parts { s.ownCopied with mdbuf := Buffer.empty } =
      (parts.flatMap fun p => copyBytes s.ibuf p.1 p.2,
        { noteCopies s.ibuf parts s.ownCopied with mdbuf := Buffer.empty }) := by
  have hibuf : s.ownCopied.ibuf = s.ibuf := noteMissing_ibuf _ _
  rw [copies_eq, noteCopies_setMdbuf, hibuf]

/-- The rule empties `MDBUF` before the walk, the body only where the walk fails; every other end assigns it
whole (R199). -/
theorem resv_eq (s : State) : resv s = resvBody s := by
  have hmdb : s.ownCopied.mdb = s.mdb := noteMissing_mdb _ _
  have hring : s.ownCopied.ring = s.ring := noteMissing_ring _ _
  unfold resv
  extract_lets p foff own copied emptied
  have hown : own = (s.ownBytes, s.ownCopied) := copy_own s
  have hemptied : emptied = { s.ownCopied with mdbuf := Buffer.empty } := by simp only [emptied, copied, hown]
  clear_value emptied own
  subst hemptied hown
  by_cases h : s.mdb = 0
  case pos =>
    rw [resvBody_of_mdb_zero h]
    exact if_pos (hmdb.trans h)
  case neg =>
    rw [resvBody_of_mdb_ne_zero h]
    refine (if_neg (by rw [hmdb]; exact h)).trans ?_
    rw [hmdb, hring, resvLoop_eq_walk]
    cases s.walk with
    | none => rfl
    | some found =>
      obtain ⟨acc, parts⟩ := found
      have holder := copies_older s parts
      simp only
      rw [holder]

end Sys2Proof.Reference

namespace Sys2Proof.Machine

theorem exec_resv {s : State} (h : s.siValid = true) : exec .resv s = .next (resvBody (accept s)) :=
  guarded_of_pre (i := .resv) (pre := (·.siValid)) h

/-- Settles O21: from its acceptance on the command is the rule. -/
theorem resvResolvesTheReservoir : Obligations.ResvResolvesTheReservoir := by
  intro s hv
  rw [exec_resv hv, accepted_eq, Reference.resv_eq]

/-- The walk succeeds exactly when some number of most recent frames holds the bytes and fits before `FOFF`. -/
theorem State.walk_isSome_iff (s : State) :
    s.walk.isSome = true ↔ ∃ k ≤ s.ring.length,
      s.mdb.toNat ≤ ((s.ring.take k).map fun size => size.toNat - s.prefixLen).sum ∧
      ((s.ring.take k).map fun size => size.toNat).sum ≤ s.foff.toNat := by
  have hspec := walk_spec s.mdb.toNat s.prefixLen s.ring s.foff.toNat 0 []
  simp only [Nat.zero_add] at hspec
  rw [Option.isSome_iff_exists]
  exact hspec

/-- What holds of `RESV` where it succeeds. -/
def ResvSucceeded (s t : State) : Prop :=
  t.mdValid = true ∧ t.mdbuf.len = s.mdb.toNat + (s.hdr.frameSize.toNat - s.prefixLen)

/-- What holds of it where the history does not reach far enough (R200, 60_exceptions.md R356). -/
def ResvFailed (s t : State) : Prop :=
  t.mdValid = false ∧ t.mdbuf.len = 0 ∧ t.lastErr = 4 ∧ t.errInfo = s.foff.setWidth 32

theorem resvBody_succeeded {s : State} (h : s.mdb = 0 ∨ s.walk.isSome = true) : ResvSucceeded s (resvBody s) := by
  by_cases hz : s.mdb = 0
  · rw [resvBody_of_mdb_zero hz]
    refine ⟨rfl, ?_⟩
    rw [Buffer.ofBytes_len, State.ownBytes_length, hz]
    simp
  · obtain ⟨⟨acc, parts⟩, hwalk⟩ := Option.isSome_iff_exists.mp (h.resolve_left hz)
    obtain ⟨hlen, hacc⟩ := walk_len _ _ s.ibuf _ _ _ [] rfl hwalk
    rw [resvBody_of_mdb_ne_zero hz, hwalk]
    refine ⟨rfl, ?_⟩
    rw [Buffer.ofBytes_len, List.length_append, List.length_drop, hlen, State.ownBytes_length]
    omega

theorem resvBody_failed {s : State} (hz : s.mdb ≠ 0) (h : s.walk = none) : ResvFailed s (resvBody s) := by
  rw [resvBody_of_mdb_ne_zero hz, h]
  have hlatches : latches s.ownCopied.lastErr .reservoirInconsistency = true := rfl
  refine ⟨rfl, rfl, ?_, ?_⟩
  · simp only [raise_lastErr, hlatches, if_true]
    rfl
  · simp only [raise_errInfo, hlatches, if_true]
    rw [BitVec.ofNat_toNat]

/-- Settles O22: `RESV` succeeds where `MDB` is 0 or the walk finds the bytes, and fails otherwise. -/
theorem resvSucceedsExactlyWithEnoughHistory : Obligations.ResvSucceedsExactlyWithEnoughHistory := by
  intro s t hv he
  rw [exec_resv hv] at he
  cases he
  have hiff := (accept s).walk_isSome_iff
  by_cases h : s.mdb = 0 ∨ (accept s).walk.isSome = true
  case pos =>
    obtain ⟨hmd, hlen⟩ := resvBody_succeeded (s := accept s) h
    refine ⟨iff_of_true hmd (h.imp_right hiff.mp), fun _ => hlen, fun hf => ?_⟩
    rw [hmd] at hf
    cases hf
  case neg =>
    obtain ⟨hz, hwalk⟩ := not_or.mp h
    obtain ⟨hmd, hlen, hlast, hinfo⟩ := resvBody_failed (s := accept s) hz (by simpa using hwalk)
    refine ⟨iff_of_false (by rw [hmd]; decide) fun hr => h (hr.imp_right hiff.mpr), fun ht => ?_,
      fun _ => ⟨hlen, hlast, hinfo⟩⟩
    rw [hmd] at ht
    cases ht

end Sys2Proof.Machine

/-! ## `ADV` (R216) -/

namespace Sys2Proof.Machine

theorem exec_adv {s : State} (h : s.hValid = true) : exec .adv s = .next (advBody (accept s)) :=
  guarded_of_pre (i := .adv) (pre := (·.hValid)) (body := advBody) h

/-- Settles O26: the new history is the frame size and the old one, cut to nine entries. -/
theorem advPushesTheFrameSize : Obligations.AdvPushesTheFrameSize := by
  intro s hv
  refine ⟨(s.hdr.frameSize :: s.ring).take 9, exec_adv hv, ?_, rfl, fun i hi => ?_⟩
  · rw [List.length_take, List.length_cons, Nat.min_comm]
  · simp only [ringEntry, List.getD_eq_getElem?_getD, List.getElem?_take_of_lt (show i + 1 < 9 by omega),
      List.getElem?_cons_succ]

end Sys2Proof.Machine

/-! ## The chain of the valid bits (R180) -/

namespace Sys2Proof.Machine

theorem validChain_looksAt : DependsOn Part.valid State.ValidChain := by
  intro s t hsame h
  have hhv : t.hValid = s.hValid := hsame .hValid (by decide)
  have hsv : t.siValid = s.siValid := hsame .siValid (by decide)
  have hmv : t.mdValid = s.mdValid := hsame .mdValid (by decide)
  exact ⟨by rw [hmv, hsv]; exact h.md, by rw [hsv, hhv]; exact h.si⟩

/-- With the other two bits 0 nothing is claimed of `H_VALID`. -/
theorem validChain_of_invalid {s : State} (hs : s.siValid = false) (hm : s.mdValid = false) : s.ValidChain :=
  ⟨fun hv => absurd hv (by simp [hm]), fun hv => absurd hv (by simp [hs])⟩

/-- Where `SI_VALID` is 0 the chain makes `MD_VALID` 0. -/
theorem State.ValidChain.mdValid_false {s : State} (h : s.ValidChain) (hs : s.siValid = false) :
    s.mdValid = false := by
  cases hm : s.mdValid with
  | false => rfl
  | true => exact absurd (h.md hm) (by simp [hs])

theorem resvBody_validChain {s : State} (hv : s.siValid = true) (h : s.ValidChain) : (resvBody s).ValidChain := by
  have hsv : (resvBody s).siValid = s.siValid := same_of (resvBody_unchanged s) (p := .siValid) (by decide)
  have hhv : (resvBody s).hValid = s.hValid := same_of (resvBody_unchanged s) (p := .hValid) (by decide)
  exact ⟨fun _ => hsv.trans hv, fun _ => hhv.trans (h.si hv)⟩

/-- Only `HDR`, `SIDE` and `RESV` set a valid bit: `HDR` clears the two others, `SIDE` and `RESV` run where the
bit before theirs is 1. -/
theorem validChain_keptByStep : KeptByStep State.ValidChain where
  raise c n s := validChain_looksAt.keep (raise_unchanged c n s) (by decide)
  sinit _ _ := validChain_of_invalid rfl rfl
  hdr s _ := validChain_of_invalid (hdrBody_siValid s) (hdrBody_mdValid s)
  side s hv _ _ := ⟨fun _ => sideBody_siValid s, fun _ => by simpa [sideBody] using hv⟩
  resv _ := resvBody_validChain
  scf gr ch s _ := validChain_looksAt.keep (scfBody_unchanged gr ch s) (by decide)
  adv _ _ := validChain_of_invalid rfl rfl
  pair gr ch t s _ := validChain_looksAt.keep (pairBody_unchanged gr ch t s) (by decide)
  quad gr ch sel s _ := validChain_looksAt.keep (quadBody_unchanged gr ch sel s) (by decide)
  specStart gr ch s := validChain_looksAt.keep (specStart_unchanged gr ch s) (by decide)
  specEnd gr ch stop s _ := validChain_looksAt.keep (specEnd_unchanged gr ch stop s) (by decide)
  acinit d s := match d with
    | .encode => validChain_looksAt.keep (acinitBody_unchanged_encode s) (by decide)
    | .decode => validChain_looksAt.keep (acinitBody_unchanged_decode s) (by decide)
  enc y s _ := validChain_looksAt.keep (encBody_unchanged y s) (by decide)
  dec s _ := validChain_looksAt.keep (decBody_unchanged s) (by decide)
  flush s _ := validChain_looksAt.keep (flushBody_unchanged s) (by decide)
  idle s := validChain_looksAt.keep (acMode_unchanged s _) (by decide)
  appendPlain _ s := validChain_looksAt.keep (setBuf_unchanged_plain s _) (by decide)
  clearPlain s := validChain_looksAt.keep (setBuf_unchanged_plain s _) (by decide)
  appendObuf _ s := validChain_looksAt.keep (setBuf_unchanged_obuf s _) (by decide)
  countFrame s := validChain_looksAt.keep (frames_unchanged s _) (by decide)
  zero s := validChain_looksAt.keep (zeroGranules_unchanged s) (by decide)
  skipByte s _ _ := validChain_looksAt.keep (skipByte_unchanged s) (by decide)
  skipFrame _ hs h := validChain_of_invalid hs (h.mdValid_false hs)
  done s := validChain_looksAt.keep (done_unchanged s) (by decide)
  accept s := validChain_looksAt.keep (accept_unchanged s) (by decide)
  clearErrors s := validChain_looksAt.keep (clearErrors_unchanged s) (by decide)
  srst _ _ := validChain_of_invalid rfl rfl
  rdbits b adv n s := validChain_looksAt.keep (rdbitsBody_unchanged b adv n s) (by cases adv <;> decide)
  regWrite n v s h := by
    rcases regWrite_cases n v s with he | he | he
    · rw [he]
      exact ⟨h.md, h.si⟩
    · rw [he]
      exact validChain_of_invalid rfl rfl
    · exact validChain_looksAt.keep he (by decide) h
  bufLoad b bytes s hm ho h := by
    rcases bufLoad_cases bytes s hm ho with he | he
    · rw [he]
      exact validChain_of_invalid rfl rfl
    · exact validChain_looksAt.keep he (by decide) h
  readout ws s := validChain_looksAt.keep (readout_unchanged s ws) (by decide)
  host ops s := validChain_looksAt.keep (host_unchanged s ops) (by decide)

/-- Settles O54: the chain is kept by every elementary action, so by every step. -/
theorem stepKeepsValidChain : Obligations.StepKeepsValidChain := validChain_keptByStep.step

end Sys2Proof.Machine

/-! ## The scale factors (41_frame_parser.md R206 to R209) -/

namespace Sys2Proof.Machine

/-! ### The values of a layout

The bits a layout reads lie one after another from `CUR` on, so what a slot holds is settled by the bits of the
slots before it. -/

/-- The bits a slot reads: none where its value is shared (R207). -/
def slotBits (slot : ScfSlot) : Nat := if slot.shared.isSome then 0 else slot.width

/-- The bits a layout reads. -/
def slotsBits (slots : List ScfSlot) : Nat := (slots.map slotBits).sum

/-- The value of a slot that is read at bit `pos`, or shared. -/
def slotValue (b : Buffer) (pos : Nat) (slot : ScfSlot) : BitVec 4 :=
  slot.shared.getD (BitVec.ofNat 4 (b.bits pos slot.width))

@[simp] theorem slotsBits_nil : slotsBits [] = 0 := rfl

@[simp] theorem slotsBits_cons (slot : ScfSlot) (slots : List ScfSlot) :
    slotsBits (slot :: slots) = slotBits slot + slotsBits slots := by
  simp [slotsBits]

@[simp] theorem slotsBits_append (l m : List ScfSlot) : slotsBits (l ++ m) = slotsBits l + slotsBits m := by
  simp [slotsBits]

/-- A slot of a layout after `off` bits of the slots before it. -/
def SlotAt (slots : List ScfSlot) (off : Nat) (slot : ScfSlot) : Prop :=
  ∃ before after, slots = before ++ slot :: after ∧ slotsBits before = off

theorem SlotAt.append_left {l : List ScfSlot} {off : Nat} {slot : ScfSlot} (h : SlotAt l off slot)
    (m : List ScfSlot) : SlotAt (l ++ m) off slot := by
  obtain ⟨before, after, rfl, hoff⟩ := h
  exact ⟨before, after ++ m, by simp, hoff⟩

theorem SlotAt.append_right {m : List ScfSlot} {off : Nat} {slot : ScfSlot} (h : SlotAt m off slot)
    (l : List ScfSlot) : SlotAt (l ++ m) (slotsBits l + off) slot := by
  obtain ⟨before, after, rfl, rfl⟩ := h
  exact ⟨l ++ before, after, by simp, slotsBits_append _ _⟩

theorem slotAt_cons {slot slot' : ScfSlot} {rest : List ScfSlot} {off : Nat} (h : SlotAt (slot :: rest) off slot') :
    (slot' = slot ∧ off = 0) ∨ ∃ off', SlotAt rest off' slot' ∧ off = slotBits slot + off' := by
  obtain ⟨before, after, he, rfl⟩ := h
  cases before with
  | nil => exact .inl ⟨(List.cons.inj he).1.symm, rfl⟩
  | cons x before =>
    obtain ⟨rfl, rfl⟩ := List.cons.inj he
    exact .inr ⟨_, ⟨before, after, rfl, rfl⟩, slotsBits_cons _ _⟩

/-- One slot moves the cursor over its bits. -/
theorem readSlot_snd (b : Buffer) (slot : ScfSlot) (c : Cursor) :
    (readSlot b slot c).2 =
      ⟨c.cur + BitVec.ofNat 32 (slotBits slot), c.miss.or (b.missing c.cur.toNat (slotBits slot))⟩ := by
  unfold readSlot slotBits
  cases slot.shared with
  | none => rfl
  | some v => simp

theorem readSlot_fst (b : Buffer) (slot : ScfSlot) (c : Cursor) :
    (readSlot b slot c).1 = slotValue b c.cur.toNat slot := by
  unfold readSlot slotValue
  cases slot.shared <;> rfl

theorem readSlots_cons (b : Buffer) (slot : ScfSlot) (rest : List ScfSlot) (c : Cursor) :
    readSlots b (slot :: rest) c =
      ((slot.dest, (readSlot b slot c).1) :: (readSlots b rest (readSlot b slot c).2).1,
        (readSlots b rest (readSlot b slot c).2).2) := rfl

/-- A layout moves `CUR` over its bits, modulo 2^32 (10_state.md R32). -/
theorem readSlots_cur (b : Buffer) (slots : List ScfSlot) (c : Cursor) :
    (readSlots b slots c).2.cur = c.cur + BitVec.ofNat 32 (slotsBits slots) := by
  induction slots generalizing c with
  | nil => simp [readSlots]
  | cons slot rest ih =>
    rw [readSlots_cons, ih, readSlot_snd, slotsBits_cons, BitVec.ofNat_add, BitVec.add_assoc]

theorem cur_add_toNat {x : BitVec 32} {n : Nat} (h : x.toNat + n < 2 ^ 32) :
    (x + BitVec.ofNat 32 n).toNat = x.toNat + n := by
  rw [BitVec.toNat_add, BitVec.toNat_ofNat]
  omega

/-- As long as `CUR` does not wrap, the first missing bit is that of one read of all the bits. -/
theorem readSlots_miss (b : Buffer) (slots : List ScfSlot) (c : Cursor)
    (h : c.cur.toNat + slotsBits slots < 2 ^ 32) :
    (readSlots b slots c).2.miss = c.miss.or (b.missing c.cur.toNat (slotsBits slots)) := by
  induction slots generalizing c with
  | nil => simp [readSlots]
  | cons slot rest ih =>
    rw [slotsBits_cons] at h
    have hcur := cur_add_toNat (x := c.cur) (n := slotBits slot) (by omega)
    rw [readSlots_cons, readSlot_snd, ih _ (by rw [hcur]; omega), hcur, Option.or_assoc, slotsBits_cons,
      Buffer.missing_add]

/-- As long as `CUR` does not wrap, a slot holds what is read behind the bits of the slots before it. -/
theorem mem_readSlots {b : Buffer} {slots : List ScfSlot} {c : Cursor} {off : Nat} {slot : ScfSlot}
    (h : c.cur.toNat + slotsBits slots < 2 ^ 32) (hslot : SlotAt slots off slot) :
    (slot.dest, slotValue b (c.cur.toNat + off) slot) ∈ (readSlots b slots c).1 := by
  induction slots generalizing c off with
  | nil =>
    obtain ⟨before, after, he, -⟩ := hslot
    simp at he
  | cons first rest ih =>
    rw [slotsBits_cons] at h
    rw [readSlots_cons]
    rcases slotAt_cons hslot with ⟨rfl, rfl⟩ | ⟨off', hrest, rfl⟩
    · rw [readSlot_fst]
      exact List.mem_cons_self
    · have hcur : (readSlot b first c).2.cur.toNat = c.cur.toNat + slotBits first := by
        rw [readSlot_snd]
        exact cur_add_toNat (by omega)
      have hmem := ih (c := (readSlot b first c).2) (by rw [hcur]; omega) hrest
      rw [hcur, Nat.add_assoc] at hmem
      exact List.mem_cons_of_mem _ hmem

/-- With each place named once, what is read for a place is settled. -/
theorem readSlots_unique {b : Buffer} {slots : List ScfSlot} {c : Cursor}
    (h : (slots.map ScfSlot.dest).Nodup) {p q : ScfDest × BitVec 4} (hp : p ∈ (readSlots b slots c).1)
    (hq : q ∈ (readSlots b slots c).1) (hpq : p.1 = q.1) : p = q := by
  rw [← readSlots_dest b slots c] at h
  exact List.inj_on_of_nodup_map h hp hq hpq

/-! ### What the two images hold afterwards -/

theorem scfLAddr_inj {gr ch : Fin 2} {i j : Nat} : scfLAddr gr ch i = scfLAddr gr ch j ↔ i = j := by
  unfold scfLAddr
  omega

theorem scfSAddr_inj {gr ch : Fin 2} {win win' sfb sfb' : Nat} (h : sfb < 13) (h' : sfb' < 13) :
    scfSAddr gr ch win sfb = scfSAddr gr ch win' sfb' ↔ win = win' ∧ sfb = sfb' := by
  unfold scfSAddr
  omega

theorem mem_longWrites_iff {gr ch : Fin 2} {vs : List (ScfDest × BitVec 4)} {sfb : Nat} {v : BitVec 4} :
    (scfLAddr gr ch sfb, v) ∈ longWrites gr ch vs ↔ (ScfDest.long sfb, v) ∈ vs := by
  unfold longWrites
  rw [List.mem_filterMap]
  constructor
  · rintro ⟨⟨dest, w⟩, hmem, he⟩
    cases dest with
    | long sfb' =>
      obtain ⟨haddr, rfl⟩ := Prod.mk.inj (Option.some.inj he)
      rwa [scfLAddr_inj.mp haddr] at hmem
    | short win sfb' => cases he
  · exact fun hmem => ⟨_, hmem, rfl⟩

/-- Every value read is that of some slot's place. -/
theorem mem_readSlots_dest {b : Buffer} {slots : List ScfSlot} {c : Cursor} {p : ScfDest × BitVec 4}
    (h : p ∈ (readSlots b slots c).1) : ∃ slot ∈ slots, slot.dest = p.1 := by
  have hmem : p.1 ∈ slots.map ScfSlot.dest := by
    rw [← readSlots_dest b slots c]
    exact List.mem_map_of_mem h
  exact List.mem_map.mp hmem

theorem scfBody_scfL (gr ch : Fin 2) (s : State) :
    (scfBody gr ch s).scfL = Memory.writeAll (Memory.clear s.scfL (scfLBase gr ch) (scfLBase gr ch + 21))
      (longWrites gr ch (readSlots s.mdbuf (scfSlots s gr ch) s.cursor).1) := by
  simp [scfBody]

theorem scfBody_scfS (gr ch : Fin 2) (s : State) :
    (scfBody gr ch s).scfS = Memory.writeAll (Memory.clear s.scfS (scfSBase gr ch) (scfSBase gr ch + 39))
      (shortWrites gr ch (readSlots s.mdbuf (scfSlots s gr ch) s.cursor).1) := by
  simp [scfBody]

theorem mem_shortWrites_short {gr ch : Fin 2} {vs : List (ScfDest × BitVec 4)} {win sfb : Nat} {v : BitVec 4}
    (h : (ScfDest.short win sfb, v) ∈ vs) : (scfSAddr gr ch win sfb, v) ∈ shortWrites gr ch vs :=
  List.mem_filterMap.mpr ⟨_, h, rfl⟩

/-- A write of the layout to a short entry is the value read for that entry. -/
theorem short_mem_of_mem_shortWrites {s : State} {gr ch : Fin 2} {c : Cursor} {win sfb : Nat} {v : BitVec 4}
    (hsfb : sfb < 13)
    (h : (scfSAddr gr ch win sfb, v) ∈ shortWrites gr ch (readSlots s.mdbuf (scfSlots s gr ch) c).1) :
    (ScfDest.short win sfb, v) ∈ (readSlots s.mdbuf (scfSlots s gr ch) c).1 := by
  obtain ⟨⟨dest, w⟩, hmem, he⟩ := List.mem_filterMap.mp h
  cases dest with
  | long sfb' => cases he
  | short win' sfb' =>
    obtain ⟨haddr, rfl⟩ := Prod.mk.inj (Option.some.inj he)
    obtain ⟨slot, hslot, hd⟩ := mem_readSlots_dest hmem
    obtain ⟨-, hsfb'⟩ := scfSlots_short hslot hd
    obtain ⟨rfl, rfl⟩ := (scfSAddr_inj (by omega) hsfb).mp haddr
    exact hmem

/-- An entry of the long image that the layout names holds the value of its slot. -/
theorem scfBody_long_of_slotAt {s : State} {gr ch : Fin 2} {off sfb : Nat} {slot : ScfSlot}
    (hnodup : ((scfSlots s gr ch).map ScfSlot.dest).Nodup)
    (hcur : s.cur.toNat + slotsBits (scfSlots s gr ch) < 2 ^ 32) (hslot : SlotAt (scfSlots s gr ch) off slot)
    (hd : slot.dest = .long sfb) :
    Memory.read (scfBody gr ch s).scfL (scfLAddr gr ch sfb) = slotValue s.mdbuf (s.cur.toNat + off) slot := by
  have hmem := mem_readSlots (b := s.mdbuf) (c := s.cursor) hcur hslot
  rw [hd] at hmem
  rw [scfBody_scfL]
  refine Memory.read_writeAll_of_mem _ _ _ _ (mem_longWrites_iff.mpr hmem) ?_
  rintro ⟨addr, v⟩ hkv rfl
  exact (Prod.mk.inj (readSlots_unique hnodup (mem_longWrites_iff.mp hkv) hmem rfl)).2

/-- An entry of the short image that the layout names holds the value of its slot. -/
theorem scfBody_short_of_slotAt {s : State} {gr ch : Fin 2} {off win sfb : Nat} {slot : ScfSlot}
    (hnodup : ((scfSlots s gr ch).map ScfSlot.dest).Nodup)
    (hcur : s.cur.toNat + slotsBits (scfSlots s gr ch) < 2 ^ 32) (hslot : SlotAt (scfSlots s gr ch) off slot)
    (hd : slot.dest = .short win sfb) (hsfb : sfb < 13) :
    Memory.read (scfBody gr ch s).scfS (scfSAddr gr ch win sfb) =
      slotValue s.mdbuf (s.cur.toNat + off) slot := by
  have hmem := mem_readSlots (b := s.mdbuf) (c := s.cursor) hcur hslot
  rw [hd] at hmem
  rw [scfBody_scfS]
  refine Memory.read_writeAll_of_mem _ _ _ _ (mem_shortWrites_short hmem) ?_
  rintro ⟨addr, v⟩ hkv rfl
  exact (Prod.mk.inj (readSlots_unique hnodup (short_mem_of_mem_shortWrites hsfb hkv) hmem rfl)).2

/-- An entry of the long image that the layout does not name is 0 (R206). -/
theorem scfBody_long_of_no_slot {s : State} {gr ch : Fin 2} {sfb : Nat} (hsfb : sfb < 21)
    (h : ∀ slot ∈ scfSlots s gr ch, slot.dest ≠ .long sfb) :
    Memory.read (scfBody gr ch s).scfL (scfLAddr gr ch sfb) = 0 := by
  rw [scfBody_scfL, Memory.read_writeAll_of_not_mem, Memory.read_clear]
  · exact if_pos (by unfold scfLAddr; omega)
  · rintro ⟨addr, v⟩ hkv rfl
    obtain ⟨slot, hslot, hd⟩ := mem_readSlots_dest (mem_longWrites_iff.mp hkv)
    exact h slot hslot hd

/-- An entry of the short image that the layout does not name is 0 (R206). -/
theorem scfBody_short_of_no_slot {s : State} {gr ch : Fin 2} {win sfb : Nat} (hwin : win < 3) (hsfb : sfb < 13)
    (h : ∀ slot ∈ scfSlots s gr ch, slot.dest ≠ .short win sfb) :
    Memory.read (scfBody gr ch s).scfS (scfSAddr gr ch win sfb) = 0 := by
  rw [scfBody_scfS, Memory.read_writeAll_of_not_mem, Memory.read_clear]
  · exact if_pos (by unfold scfSAddr; omega)
  · rintro ⟨addr, v⟩ hkv rfl
    obtain ⟨slot, hslot, hd⟩ := mem_readSlots_dest (short_mem_of_mem_shortWrites hsfb hkv)
    exact h slot hslot hd

/-- An entry of the long image of another granule or channel reads as before. -/
theorem scfBody_long_outside {s : State} {gr ch : Fin 2} {a : Nat} (h : ∀ sfb < 21, a ≠ scfLAddr gr ch sfb) :
    Memory.read (scfBody gr ch s).scfL a = Memory.read s.scfL a := by
  rw [scfBody_scfL, Memory.read_writeAll_of_not_mem, Memory.read_clear]
  · refine if_neg fun hin => h (a - scfLBase gr ch) (by omega) ?_
    unfold scfLAddr
    omega
  · intro kv hkv
    obtain ⟨sfb, hsfb, haddr⟩ := mem_longWrites hkv
    rw [haddr]
    exact (h sfb hsfb).symm

/-- An entry of the short image of another granule or channel reads as before. -/
theorem scfBody_short_outside {s : State} {gr ch : Fin 2} {a : Nat}
    (h : ∀ win < 3, ∀ sfb < 13, a ≠ scfSAddr gr ch win sfb) :
    Memory.read (scfBody gr ch s).scfS a = Memory.read s.scfS a := by
  rw [scfBody_scfS, Memory.read_writeAll_of_not_mem, Memory.read_clear]
  · refine if_neg fun hin => h ((a - scfSBase gr ch) / 13) (by omega) ((a - scfSBase gr ch) % 13) (by omega) ?_
    unfold scfSAddr
    omega
  · intro kv hkv
    obtain ⟨win, sfb, haddr, hwin, hsfb⟩ := mem_shortWrites hkv
    rw [haddr]
    exact (h win hwin sfb (by omega)).symm

/-! ### The registers afterwards -/

theorem scfBody_p2start (gr ch : Fin 2) (s : State) : (scfBody gr ch s).p2start = s.cur := by
  simp [scfBody]

theorem scfBody_cur (gr ch : Fin 2) (s : State) :
    (scfBody gr ch s).cur = s.cur + BitVec.ofNat 32 (slotsBits (scfSlots s gr ch)) := by
  simp only [scfBody, applyCursor_cur, readSlots_cur, State.cursor]

theorem noteMissing_err_congr {s t : State} (m : Option Nat) (h : t.err = s.err) :
    (noteMissing m t).err = (noteMissing m s).err := by
  cases m <;> simp [h]

theorem noteMissing_lastErr_congr {s t : State} (m : Option Nat) (h : t.lastErr = s.lastErr) :
    (noteMissing m t).lastErr = (noteMissing m s).lastErr := by
  cases m <;> simp [h, raise_lastErr]

theorem noteMissing_errInfo_congr {s t : State} (m : Option Nat) (h : t.lastErr = s.lastErr)
    (hinfo : t.errInfo = s.errInfo) : (noteMissing m t).errInfo = (noteMissing m s).errInfo := by
  cases m <;> simp [h, hinfo, raise_errInfo]

/-- The condition `SCF` records is that of one read of all its bits (20_memory.md R84). -/
theorem scfBody_notesMissing {s : State} {gr ch : Fin 2}
    (hcur : s.cur.toNat + slotsBits (scfSlots s gr ch) < 2 ^ 32) :
    Reference.notesMissing (s.mdbuf.missing s.cur.toNat (slotsBits (scfSlots s gr ch))) s
      (scfBody gr ch (accept s)) := by
  have hmiss : (readSlots s.mdbuf (scfSlots s gr ch) s.cursor).2.miss =
      s.mdbuf.missing s.cur.toNat (slotsBits (scfSlots s gr ch)) := readSlots_miss _ _ s.cursor hcur
  rw [← hmiss]
  exact ⟨noteMissing_err_congr _ rfl, noteMissing_lastErr_congr _ rfl, noteMissing_errInfo_congr _ rfl rfl⟩

end Sys2Proof.Machine

/-! ### The slots of each layout -/

namespace Sys2Proof.Machine

/-- In a layout made of parts, a slot lies behind the parts before its own. -/
theorem slotAt_flatMap_range (parts : Nat → List ScfSlot) {n k : Nat} (hk : k < n) {off : Nat} {slot : ScfSlot}
    (h : SlotAt (parts k) off slot) :
    SlotAt ((List.range n).flatMap parts) (slotsBits ((List.range k).flatMap parts) + off) slot := by
  obtain ⟨m, rfl⟩ := Nat.exists_eq_add_of_lt hk
  rw [Nat.add_assoc, List.range_add, List.range_succ_eq_map, List.flatMap_append, List.map_cons, List.flatMap_cons]
  exact (h.append_left _).append_right _

theorem slotAt_map_range (f : Nat → ScfSlot) {n k : Nat} (hk : k < n) :
    SlotAt ((List.range n).map f) (slotsBits ((List.range k).map f)) (f k) := by
  have hself : SlotAt [f k] 0 (f k) := ⟨[], [], rfl, rfl⟩
  have hpart := slotAt_flatMap_range (fun i => [f i]) hk hself
  rwa [← List.map_eq_flatMap, ← List.map_eq_flatMap] at hpart

/-- Slots of one width. -/
theorem slotsBits_map_range {f : Nat → ScfSlot} {width : Nat} (hf : ∀ k, slotBits (f k) = width) (n : Nat) :
    slotsBits ((List.range n).map f) = width * n := by
  simp [slotsBits, Function.comp_def, hf, Nat.mul_comm]

/-- A slot of the long-window layout, with the sharing of R207 as `sharedBand` says it. -/
def longSlot (s : State) (gr ch : Fin 2) (slen1 slen2 sfb : Nat) : ScfSlot where
  dest := .long sfb
  width := if sfb < 11 then slen1 else slen2
  shared := if Reference.sharedBand s gr ch sfb then some (Memory.read s.scfL (scfLAddr 0 ch sfb)) else none

theorem longSlots_eq (s : State) (gr ch : Fin 2) (slen1 slen2 : Nat) :
    longSlots s gr ch slen1 slen2 = (List.range 21).map (longSlot s gr ch slen1 slen2) := by
  unfold longSlots longSlot Reference.sharedBand
  simp only [Bool.and_eq_true, decide_eq_true_eq]
  rfl

/-- The long layout reads a slot behind the bands below it that are not shared (R207). -/
theorem slotsBits_longSlot (s : State) (gr ch : Fin 2) (slen1 slen2 sfb : Nat) :
    slotsBits ((List.range sfb).map (longSlot s gr ch slen1 slen2)) =
      Reference.longOffsetShared s gr ch slen1 slen2 sfb := by
  induction sfb with
  | zero => rfl
  | succ sfb ih =>
    have hbits : slotBits (longSlot s gr ch slen1 slen2 sfb) =
        if Reference.sharedBand s gr ch sfb then 0 else if sfb < 11 then slen1 else slen2 := by
      unfold slotBits longSlot
      cases Reference.sharedBand s gr ch sfb <;> rfl
    rw [List.range_succ, List.map_append, slotsBits_append, ih, List.map_singleton, slotsBits_cons, hbits]
    rfl

theorem longOffsetShared_le (s : State) (gr ch : Fin 2) (slen1 slen2 sfb : Nat) :
    Reference.longOffsetShared s gr ch slen1 slen2 sfb ≤ min sfb 11 * slen1 + (sfb - 11) * slen2 := by
  induction sfb with
  | zero => simp [Reference.longOffsetShared]
  | succ sfb ih =>
    have hwidth : min (sfb + 1) 11 * slen1 + (sfb + 1 - 11) * slen2 =
        min sfb 11 * slen1 + (sfb - 11) * slen2 + if sfb < 11 then slen1 else slen2 := by
      split
      · rw [Nat.min_eq_left (by omega), Nat.min_eq_left (by omega), Nat.sub_eq_zero_of_le (by omega),
          Nat.sub_eq_zero_of_le (by omega)]
        ring
      · rw [Nat.min_eq_right (by omega), Nat.min_eq_right (by omega), Nat.sub_add_comm (by omega)]
        ring
    rw [hwidth]
    unfold Reference.longOffsetShared
    exact Nat.add_le_add ih (by split <;> omega)

theorem slotsBits_longSlots (s : State) (gr ch : Fin 2) (slen1 slen2 : Nat) :
    slotsBits (longSlots s gr ch slen1 slen2) = Reference.longOffsetShared s gr ch slen1 slen2 21 := by
  rw [longSlots_eq, slotsBits_longSlot]

/-- The long layout has 11 bands of the first width and 10 of the second (R207). -/
theorem slotsBits_longSlots_le (s : State) (gr ch : Fin 2) (slen1 slen2 : Nat) :
    slotsBits (longSlots s gr ch slen1 slen2) ≤ 11 * slen1 + 10 * slen2 := by
  rw [slotsBits_longSlots]
  exact longOffsetShared_le s gr ch slen1 slen2 21

theorem slotAt_longSlots (s : State) (gr ch : Fin 2) (slen1 slen2 : Nat) {sfb : Nat} (h : sfb < 21) :
    SlotAt (longSlots s gr ch slen1 slen2) (Reference.longOffsetShared s gr ch slen1 slen2 sfb)
      (longSlot s gr ch slen1 slen2 sfb) := by
  rw [longSlots_eq, ← slotsBits_longSlot]
  exact slotAt_map_range _ h

theorem longSlots_nodup (s : State) (gr ch : Fin 2) (slen1 slen2 : Nat) :
    ((longSlots s gr ch slen1 slen2).map ScfSlot.dest).Nodup := by
  rw [longSlots_eq, List.map_map]
  exact List.nodup_range.map fun _ _ h => ScfDest.long.inj h

/-- A slot that is read, of the short image. -/
def shortSlot (width win sfb : Nat) : ScfSlot where
  dest := .short win sfb
  width := width
  shared := none

/-- The three windows of a short band. -/
def shortBand (width sfb : Nat) : List ScfSlot := (List.range 3).map fun win => shortSlot width win sfb

theorem shortSlots_eq (lo hi width : Nat) :
    shortSlots lo hi width = (List.range (hi - lo)).flatMap fun k => shortBand width (lo + k) := rfl

theorem slotsBits_shortBand (width sfb : Nat) : slotsBits (shortBand width sfb) = width * 3 :=
  slotsBits_map_range (fun _ => rfl) 3

theorem slotsBits_shortBands (width lo n : Nat) :
    slotsBits ((List.range n).flatMap fun k => shortBand width (lo + k)) = width * (3 * n) := by
  induction n with
  | zero => rfl
  | succ n ih =>
    rw [List.range_succ, List.flatMap_append, slotsBits_append, ih, List.flatMap_singleton, slotsBits_shortBand]
    ring

theorem slotsBits_shortSlots (lo hi width : Nat) :
    slotsBits (shortSlots lo hi width) = width * (3 * (hi - lo)) := by
  rw [shortSlots_eq, slotsBits_shortBands]

theorem slotAt_shortBand (width sfb : Nat) {win : Nat} (h : win < 3) :
    SlotAt (shortBand width sfb) (width * win) (shortSlot width win sfb) := by
  have hslot := slotAt_map_range (fun win => shortSlot width win sfb) h
  rwa [slotsBits_map_range (f := fun win => shortSlot width win sfb) fun _ => rfl] at hslot

/-- Short bands lie band after band, window after window (R208). -/
theorem slotAt_shortSlots {lo hi win sfb : Nat} (width : Nat) (hwin : win < 3) (hlo : lo ≤ sfb) (hhi : sfb < hi) :
    SlotAt (shortSlots lo hi width) (width * (3 * (sfb - lo) + win)) (shortSlot width win sfb) := by
  have hslot := slotAt_flatMap_range (fun k => shortBand width (lo + k)) (show sfb - lo < hi - lo by omega)
    (slotAt_shortBand width _ hwin)
  rwa [slotsBits_shortBands, ← Nat.mul_add, Nat.add_sub_cancel' hlo] at hslot

/-- A slot of the mixed layout's long bands. -/
def mixedLongSlot (width sfb : Nat) : ScfSlot where
  dest := .long sfb
  width := width
  shared := none

theorem mixedLongSlots_eq (width : Nat) : mixedLongSlots width = (List.range 8).map (mixedLongSlot width) := rfl

theorem slotAt_mixedLongSlots (width : Nat) {sfb : Nat} (h : sfb < 8) :
    SlotAt (mixedLongSlots width) (sfb * width) (mixedLongSlot width sfb) := by
  have hslot := slotAt_map_range (mixedLongSlot width) h
  rwa [slotsBits_map_range (f := mixedLongSlot width) fun _ => rfl, Nat.mul_comm] at hslot

/-- The layouts of R208 and R209: the mixed one has 8 long bands in place of the short bands 0 to 2. -/
def shortLayout (mixed : Bool) (slen1 slen2 : Nat) : List ScfSlot :=
  (if mixed then mixedLongSlots slen1 else []) ++
    (shortSlots (if mixed then 3 else 0) 6 slen1 ++ shortSlots 6 12 slen2)

/-- The bits of the long bands of a layout of R208 or R209. -/
theorem slotsBits_mixedPart (mixed : Bool) (slen1 : Nat) :
    slotsBits (if mixed then mixedLongSlots slen1 else []) = if mixed then 8 * slen1 else 0 := by
  cases mixed
  · rfl
  · exact (slotsBits_map_range (f := mixedLongSlot slen1) (fun _ => rfl) 8).trans (Nat.mul_comm _ _)

theorem slotsBits_shortLayout (mixed : Bool) (slen1 slen2 : Nat) :
    slotsBits (shortLayout mixed slen1 slen2) = (if mixed then 17 else 18) * slen1 + 18 * slen2 := by
  unfold shortLayout
  rw [slotsBits_append, slotsBits_append, slotsBits_mixedPart, slotsBits_shortSlots, slotsBits_shortSlots]
  cases mixed <;> simp <;> ring

/-- Each transmitted short entry lies at the offset that R208 and R209 give it. -/
theorem slotAt_shortLayout (mixed : Bool) (slen1 slen2 : Nat) {win sfb : Nat} (hwin : win < 3)
    (hlo : (if mixed then 3 else 0) ≤ sfb) (hsfb : sfb < 12) :
    SlotAt (shortLayout mixed slen1 slen2)
      (Reference.shortOffset (if mixed then 8 * slen1 else 0) (if mixed then 3 else 0) slen1 slen2 sfb win)
      (shortSlot (Reference.shortWidth slen1 slen2 sfb) win sfb) := by
  unfold Reference.shortOffset Reference.shortWidth
  rw [← slotsBits_mixedPart]
  refine SlotAt.append_right ?_ _
  by_cases h : sfb < 6
  · rw [if_pos h, if_pos h]
    exact (slotAt_shortSlots slen1 hwin hlo h).append_left _
  · rw [if_neg h, if_neg h, ← slotsBits_shortSlots]
    exact (slotAt_shortSlots slen2 hwin (by omega) hsfb).append_right _

theorem slotAt_shortLayout_long (slen1 slen2 : Nat) {sfb : Nat} (h : sfb < 8) :
    SlotAt (shortLayout true slen1 slen2) (sfb * slen1) (mixedLongSlot slen1 sfb) :=
  (slotAt_mixedLongSlots slen1 h).append_left _

/-- A place of a layout of R208 or R209 is one of the mixed layout's long bands, or a short band that the layout
transmits. -/
theorem mem_shortLayout {mixed : Bool} {slen1 slen2 : Nat} {slot : ScfSlot}
    (h : slot ∈ shortLayout mixed slen1 slen2) :
    (mixed = true ∧ ∃ sfb < 8, slot.dest = .long sfb) ∨
      ∃ win sfb, slot.dest = .short win sfb ∧ (if mixed then 3 else 0) ≤ sfb ∧ sfb < 12 := by
  rcases List.mem_append.mp h with h | h
  · cases mixed with
    | false => simp at h
    | true =>
      obtain ⟨sfb, hsfb, rfl⟩ := List.mem_map.mp h
      exact .inl ⟨rfl, sfb, List.mem_range.mp hsfb, rfl⟩
  · right
    rcases List.mem_append.mp h with h | h
    · obtain ⟨win, sfb, hd, -, hlo, hhi⟩ := mem_shortSlots h
      exact ⟨win, sfb, hd, hlo, by omega⟩
    · obtain ⟨win, sfb, hd, -, hlo, hhi⟩ := mem_shortSlots h
      exact ⟨win, sfb, hd, by split <;> omega, hhi⟩

/-- The places of a layout do not depend on the widths. -/
theorem shortLayout_dest (mixed : Bool) (slen1 slen2 : Nat) :
    (shortLayout mixed slen1 slen2).map ScfSlot.dest = (shortLayout mixed 0 0).map ScfSlot.dest := by
  cases mixed <;> rfl

theorem shortLayout_nodup (mixed : Bool) (slen1 slen2 : Nat) :
    ((shortLayout mixed slen1 slen2).map ScfSlot.dest).Nodup := by
  rw [shortLayout_dest]
  revert mixed
  decide

/-! ### The layout of a block -/

/-- The widths of a block's scale factors (R205). -/
def State.slen (s : State) (gr ch : Fin 2) : Nat × Nat := s.cfg.slen (s.si.get gr ch).sfcomp.toNat

theorem scfSlots_of_long {s : State} {gr ch : Fin 2}
    (h : ¬ ((s.si.get gr ch).wsw = 1 ∧ (s.si.get gr ch).btype = 2)) :
    scfSlots s gr ch = longSlots s gr ch (s.slen gr ch).1 (s.slen gr ch).2 := if_neg h

theorem scfSlots_of_short {s : State} {gr ch : Fin 2} (hwsw : (s.si.get gr ch).wsw = 1)
    (hbtype : (s.si.get gr ch).btype = 2) :
    scfSlots s gr ch =
      shortLayout (decide ((s.si.get gr ch).mixed = 1)) (s.slen gr ch).1 (s.slen gr ch).2 := by
  unfold scfSlots
  simp only [hwsw, hbtype, and_self, if_true]
  by_cases hmixed : (s.si.get gr ch).mixed = 1
  · simp only [hmixed, if_true, decide_true, List.append_assoc, shortLayout]
    rfl
  · simp only [hmixed, if_false, decide_false, Bool.false_eq_true, shortLayout, List.nil_append]
    rfl

/-- What `SCF` reads rests on nothing that acceptance writes. -/
theorem scfSlots_accept (s : State) (gr ch : Fin 2) : scfSlots (accept s) gr ch = scfSlots s gr ch := rfl

/-! ### The command -/

theorem exec_scf {gr ch : Fin 2} {s : State} (hv : s.mdValid = true) (hch : ch.val < s.hdr.channels.toNat) :
    exec (.scf gr ch) s = .next (scfBody gr ch (accept s)) := by
  have hpre : granulePre ch (accept s) = true := Bool.and_eq_true_iff.mpr ⟨hv, decide_eq_true hch⟩
  exact guarded_of_pre (i := .scf gr ch) hpre

theorem scfBody_accept_unchanged (gr ch : Fin 2) (s : State) :
    unchangedBut (writes (.scf gr ch)) s (scfBody gr ch (accept s)) := by
  rw [writes_scf]
  exact unchangedBut_of_accept (scfBody_unchanged gr ch _) (by decide)

theorem scfBody_cur_toNat {s : State} {gr ch : Fin 2}
    (h : s.cur.toNat + slotsBits (scfSlots s gr ch) < 2 ^ 32) :
    (scfBody gr ch (accept s)).cur.toNat = s.cur.toNat + slotsBits (scfSlots s gr ch) := by
  rw [scfBody_cur]
  exact cur_add_toNat h

/-- Settles O23: the slots of the long layout lie at the offsets of R207, and no slot is short. -/
theorem scfLongLayout : Obligations.ScfLongLayout := by
  intro s gr ch hv hch hcur hlong slen1 slen2 hslen1 hslen2
  have hslots : scfSlots s gr ch = longSlots s gr ch slen1 slen2 := scfSlots_of_long hlong
  have hbits : slotsBits (scfSlots s gr ch) = Reference.longOffsetShared s gr ch slen1 slen2 21 := by
    rw [hslots, slotsBits_longSlots]
  have hroom : s.cur.toNat + slotsBits (scfSlots s gr ch) < 2 ^ 32 := by
    have := slotsBits_longSlots_le s gr ch slen1 slen2
    rw [hslots]
    omega
  rw [← hbits]
  refine ⟨_, exec_scf hv hch, scfBody_p2start _ _ _, scfBody_cur_toNat hroom, scfBody_notesMissing hroom,
    fun sfb hsfb => ?_, fun win hwin sfb hsfb => ?_, fun a ha => scfBody_long_outside ha,
    fun a ha => scfBody_short_outside ha, scfBody_accept_unchanged _ _ _⟩
  · have hslot := slotAt_longSlots s gr ch slen1 slen2 hsfb
    rw [← hslots] at hslot
    rw [scfBody_long_of_slotAt (s := accept s) (hslots ▸ longSlots_nodup _ _ _ _ _) hroom hslot rfl]
    unfold slotValue longSlot
    cases Reference.sharedBand s gr ch sfb <;> rfl
  · refine scfBody_short_of_no_slot hwin hsfb fun slot hmem hd => ?_
    rw [scfSlots_accept, hslots] at hmem
    obtain ⟨k, -, rfl⟩ := List.mem_map.mp hmem
    cases hd

/-- Settles O24: the slots of both layouts lie at the offsets of R208 and R209, and the other entries have none. -/
theorem scfShortAndMixedLayout : Obligations.ScfShortAndMixedLayout := by
  intro s gr ch hv hch hcur hwsw hbtype slen1 slen2 mixed base lo hslen1 hslen2
  have hslots : scfSlots s gr ch = shortLayout (decide mixed) slen1 slen2 := scfSlots_of_short hwsw hbtype
  have hbits : slotsBits (scfSlots s gr ch) = (if mixed then 17 else 18) * slen1 + 18 * slen2 := by
    rw [hslots, slotsBits_shortLayout]
    simp only [decide_eq_true_eq]
  have hroom : s.cur.toNat + slotsBits (scfSlots s gr ch) < 2 ^ 32 := by
    rw [hbits]
    split <;> omega
  have hnodup : ((scfSlots s gr ch).map ScfSlot.dest).Nodup := hslots ▸ shortLayout_nodup _ _ _
  rw [Nat.add_assoc, ← hbits]
  refine ⟨_, exec_scf hv hch, scfBody_p2start _ _ _, scfBody_cur_toNat hroom, scfBody_notesMissing hroom,
    fun sfb hsfb => ?_, fun win hwin sfb hsfb => ?_, fun a ha => scfBody_long_outside ha,
    fun a ha => scfBody_short_outside ha, scfBody_accept_unchanged _ _ _⟩
  · split
    case isTrue h =>
      obtain ⟨hmixed, hsfb8⟩ := h
      have hslot := slotAt_shortLayout_long slen1 slen2 hsfb8
      rw [← decide_eq_true hmixed, ← hslots] at hslot
      exact scfBody_long_of_slotAt (s := accept s) hnodup hroom hslot rfl
    case isFalse h =>
      refine scfBody_long_of_no_slot hsfb fun slot hmem hd => h ?_
      rw [scfSlots_accept, hslots] at hmem
      rcases mem_shortLayout hmem with ⟨hmixed, k, hk, hd'⟩ | ⟨win, k, hd', -⟩
      · cases hd.symm.trans hd'
        exact ⟨of_decide_eq_true hmixed, hk⟩
      · cases hd.symm.trans hd'
  · have hlo : lo = if decide mixed then 3 else 0 := by simp only [lo, decide_eq_true_eq]
    have hbase : base = if decide mixed then 8 * slen1 else 0 := by simp only [base, decide_eq_true_eq]
    split
    case isTrue h =>
      obtain ⟨hle, hlt⟩ := h
      have hslot := slotAt_shortLayout (decide mixed) slen1 slen2 hwin (hlo ▸ hle) hlt
      rw [← hslots, ← hlo, ← hbase] at hslot
      exact scfBody_short_of_slotAt (s := accept s) hnodup hroom hslot rfl hsfb
    case isFalse h =>
      refine scfBody_short_of_no_slot hwin hsfb fun slot hmem hd => h ?_
      rw [scfSlots_accept, hslots] at hmem
      rcases mem_shortLayout hmem with ⟨-, k, -, hd'⟩ | ⟨win', k, hd', hle, hlt⟩
      · cases hd.symm.trans hd'
      · cases hd.symm.trans hd'
        exact ⟨hlo ▸ hle, hlt⟩

/-! ### What a layout consumes -/

theorem default_slen_le : ∀ sfcomp : BitVec 4,
    (Config.default.slen sfcomp.toNat).1 ≤ 4 ∧ (Config.default.slen sfcomp.toNat).2 ≤ 3 := by decide

theorem scfBody_cur_sub_le {s : State} {gr ch : Fin 2} {n : Nat} (h : slotsBits (scfSlots s gr ch) ≤ n) :
    ((scfBody gr ch (accept s)).cur - s.cur).toNat ≤ n := by
  have hsub : (scfBody gr ch (accept s)).cur - s.cur = BitVec.ofNat 32 (slotsBits (scfSlots s gr ch)) := by
    rw [scfBody_cur, accept_cur, BitVec.add_comm, BitVec.add_sub_cancel, scfSlots_accept]
  rw [hsub, BitVec.toNat_ofNat]
  exact (Nat.mod_le _ _).trans h

/-- Settles O25: the bits of the layouts under the largest widths of R205. -/
theorem scfConsumptionIsBounded : Obligations.ScfConsumptionIsBounded := by
  intro s t gr ch hcfg hv hch he
  rw [exec_scf hv hch] at he
  cases he
  obtain ⟨hslen1, hslen2⟩ : (s.slen gr ch).1 ≤ 4 ∧ (s.slen gr ch).2 ≤ 3 := by
    rw [State.slen, hcfg]
    exact default_slen_le _
  refine ⟨fun hlong => scfBody_cur_sub_le ?_, fun hwsw hbtype => scfBody_cur_sub_le ?_⟩
  · rw [scfSlots_of_long hlong]
    have := slotsBits_longSlots_le s gr ch (s.slen gr ch).1 (s.slen gr ch).2
    omega
  · rw [scfSlots_of_short hwsw hbtype, slotsBits_shortLayout]
    split <;> omega

end Sys2Proof.Machine

/-! ## The search for a code word (42_spectrum_huffman.md R231, R232) -/

namespace Sys2Proof.Machine

/-! ### Everything the search can do -/

/-- The first `n` bits at an offset, as a code word. -/
def Buffer.word (b : Buffer) (off n : Nat) : CodeWord := ⟨b.bits off n, n⟩

/-- The first bits of a longer read. -/
theorem Buffer.bits_div {m n : Nat} (b : Buffer) (off : Nat) (h : m ≤ n) :
    b.bits off n / 2 ^ (n - m) = b.bits off m := by
  obtain ⟨k, rfl⟩ := Nat.exists_eq_add_of_le h
  rw [Buffer.bits_add, Nat.add_sub_cancel_left, Nat.mul_comm, Nat.mul_add_div (Nat.two_pow_pos k),
    Nat.div_eq_of_lt (Buffer.bits_lt _ _ _), Nat.add_zero]

/-- One turn of the search: the `l + 1` bits at `CUR` are looked up. -/
theorem matchFrom_succ (b : Buffer) (es : List CodeWord) (cur : BitVec 32) (fuel l : Nat) (miss : Option Nat) :
    matchFrom b es cur (fuel + 1) l (b.bits cur.toNat l) miss =
      match findCode (b.bits cur.toNat (l + 1)) (l + 1) es 0 with
      | some i =>
        (some i, { cur := cur + BitVec.ofNat 32 (l + 1), miss := miss.or (b.missing (cur.toNat + l) 1) })
      | none =>
        matchFrom b es cur fuel (l + 1) (b.bits cur.toNat (l + 1)) (miss.or (b.missing (cur.toNat + l) 1)) := by
  rw [Buffer.bits_succ, ← Buffer.bits_one]
  rfl

/-- What the search returns after `l` bits, and where its cursor then stands: the number of an entry that is
the next bits, `CUR` behind them, or nothing, where no more bits are an entry. -/
theorem matchFrom_cases (b : Buffer) (es : List CodeWord) (cur : BitVec 32) (fuel l : Nat) (miss : Option Nat) :
    (∃ i n, (matchFrom b es cur fuel l (b.bits cur.toNat l) miss).1 = some i ∧
        es[i]? = some (b.word cur.toNat n) ∧
        (matchFrom b es cur fuel l (b.bits cur.toNat l) miss).2.cur = cur + BitVec.ofNat 32 n) ∨
      ((matchFrom b es cur fuel l (b.bits cur.toNat l) miss).1 = none ∧
        ∀ n, l < n → n ≤ l + fuel → b.word cur.toNat n ∉ es) := by
  induction fuel generalizing l miss with
  | zero => exact .inr ⟨rfl, fun n hlo hhi => absurd hhi (by omega)⟩
  | succ fuel ih =>
    rw [matchFrom_succ]
    cases hfind : findCode (b.bits cur.toNat (l + 1)) (l + 1) es 0 with
    | some i => exact .inl ⟨i, l + 1, rfl, (findCode_some hfind).2, rfl⟩
    | none =>
      refine (ih (l + 1) _).imp_right fun ⟨hnone, hmore⟩ => ⟨hnone, fun n hlo hhi => ?_⟩
      rcases Nat.eq_or_lt_of_le hlo with rfl | hlo
      · exact findCode_none hfind
      · exact hmore n hlo (by omega)

/-- Everything `Match` can do (R232): an entry of the table found at `CUR`, or none of 1 to 32 bits there. -/
theorem matchCode_cases (b : Buffer) (es : List CodeWord) (c : Cursor) :
    (∃ i n, (matchCode b es c).1 = some i ∧ es[i]? = some (b.word c.cur.toNat n) ∧
        (matchCode b es c).2.cur = c.cur + BitVec.ofNat 32 n) ∨
      ((matchCode b es c).1 = none ∧ ∀ n, 1 ≤ n → n ≤ 32 → b.word c.cur.toNat n ∉ es) := by
  have hcases := matchFrom_cases b es c.cur 32 0 c.miss
  rwa [Nat.zero_add] at hcases

theorem matchCode_some {b : Buffer} {es : List CodeWord} {c : Cursor} {i : Nat}
    (h : (matchCode b es c).1 = some i) :
    ∃ n, es[i]? = some (b.word c.cur.toNat n) ∧ (matchCode b es c).2.cur = c.cur + BitVec.ofNat 32 n := by
  rcases matchCode_cases b es c with ⟨j, n, hj, hentry, hcur⟩ | ⟨hnone, -⟩
  · cases hj.symm.trans h
    exact ⟨n, hentry, hcur⟩
  · cases hnone.symm.trans h

/-! ### The one code word at the cursor -/

/-- Of two words at one offset the shorter begins the longer. -/
theorem Buffer.word_begins {m n : Nat} (b : Buffer) (off : Nat) (h : m ≤ n) :
    (b.word off n).code / 2 ^ ((b.word off n).len - (b.word off m).len) = (b.word off m).code := b.bits_div off h

/-- So a table in which no code word begins another has at most one entry at an offset (R231). -/
theorem word_index_unique {es : List CodeWord} (hes : uniquelyDecodable es) {b : Buffer} {off i j m n : Nat}
    (hi : es[i]? = some (b.word off m)) (hj : es[j]? = some (b.word off n)) : i = j := by
  by_contra hij
  rcases Nat.le_total m n with h | h
  · exact hes i j _ _ hi hj hij h (b.word_begins off h)
  · exact hes j i _ _ hj hi (Ne.symm hij) h (b.word_begins off h)

/-- Settles O27: the entry found is at the cursor, and where no code word begins another there is only one. -/
theorem matchFindsTheCodeWord : Obligations.MatchFindsTheCodeWord := by
  intro b es c i e hes he hlo hhi
  have hfound : (matchCode b es c).1 = some i →
      b.bits c.cur.toNat e.len = e.code ∧ (matchCode b es c).2.cur = c.cur + BitVec.ofNat 32 e.len := by
    intro h
    obtain ⟨n, hentry, hcur⟩ := matchCode_some h
    cases he.symm.trans hentry
    exact ⟨rfl, hcur⟩
  refine ⟨⟨fun h => (hfound h).1, fun hbits => ?_⟩, fun h => (hfound h).2⟩
  have hword : es[i]? = some (b.word c.cur.toNat e.len) := by rw [he, Buffer.word, hbits]
  rcases matchCode_cases b es c with ⟨j, n, hj, hentry, -⟩ | ⟨-, hnone⟩
  · rw [hj, word_index_unique hes hword hentry]
  · exact absurd (List.mem_of_getElem? hword) (hnone _ hlo hhi)

end Sys2Proof.Machine

/-! ## `HUFPAIR` and `HUFQUAD` as their pseudocode (R235, R238)

The pseudocode moves `CUR` and raises on the state itself; the bodies read with a cursor and apply it once, at the
end. Both stand, after the same reads, in the state that the cursor has moved on. -/

namespace Sys2Proof.Machine

/-- A pair whose code word is not found. -/
theorem readPair_of_match_none {cfg : Config} {b : Buffer} {tbl : Nat} {c : Cursor} {tree : Tree} (h0 : tbl ≠ 0)
    (htree : cfg.pairTree tbl = some tree) (h : (matchCode b tree.entries c).1 = none) :
    readPair cfg b tbl c = (none, (matchCode b tree.entries c).2) := by
  unfold readPair
  rw [if_neg h0, htree]
  simp only
  rw [← Prod.mk.eta (p := matchCode b tree.entries c), h]

/-- A pair whose code word is entry `i`: two values, each with its escape and its sign (R235). -/
theorem readPair_of_match_some {cfg : Config} {b : Buffer} {tbl i : Nat} {c : Cursor} {tree : Tree} (h0 : tbl ≠ 0)
    (htree : cfg.pairTree tbl = some tree) (h : (matchCode b tree.entries c).1 = some i) :
    readPair cfg b tbl c =
      (let x := readValue b (cfg.linbits tbl) (i / tree.dim) (matchCode b tree.entries c).2
       let y := readValue b (cfg.linbits tbl) (i % tree.dim) x.2
       (some (x.1, y.1), y.2)) := by
  unfold readPair
  rw [if_neg h0, htree]
  simp only
  rw [← Prod.mk.eta (p := matchCode b tree.entries c), h]

end Sys2Proof.Machine

namespace Sys2Proof.Reference

open Sys2Proof.Machine

/-- Reads that left `CUR` where it was only noted a missing bit. -/
theorem applyCursor_of_cur_eq {c : Cursor} {s : State} (h : c.cur = s.cur) :
    applyCursor c s = noteMissing c.miss s := by
  unfold applyCursor
  rw [h]

/-- A search that fails at the start of a command ends it as `storeWord` does (R232, R235). -/
theorem failed_search {es : List CodeWord} (gr ch : Fin 2) (s : State)
    (h : (matchCode s.mdbuf es s.cursor).1 = none) :
    (raise .huffmanDecodeFailure s.cur.toNat (applyCursor (matchCode s.mdbuf es s.cursor).2 s), false) =
      storeWord gr ch none (matchCode s.mdbuf es s.cursor).2 s := by
  rw [applyCursor_of_cur_eq (matchCode_none h)]
  rfl

/-- The search at the start of a command is a read of its cursor. -/
theorem matchWord_eq (es : List CodeWord) (s : State) :
    matchWord es s = ((matchCode s.mdbuf es s.cursor).1, applyCursor (matchCode s.mdbuf es s.cursor).2 s) :=
  matchWord_applyCursor es s.cursor s

/-! ### Pairs -/

/-- Table id 0 stores two zeros and reads nothing (R233). -/
theorem pairBody_zero (gr ch : Fin 2) (s : State) : pairBody gr ch 0 s = (storePair gr ch 0 0 s, true) :=
  (congrArg (·, true) (storePair_applyCursor gr ch 0 0 s.cursor s)).symm

/-- A table id without a tree fails to decode (R233, assumption log 14). -/
theorem pairBody_of_no_tree (gr ch : Fin 2) {tbl : Nat} {s : State} (h0 : tbl ≠ 0) (h : s.cfg.pairTree tbl = none) :
    pairBody gr ch tbl s = (raise .huffmanDecodeFailure s.cur.toNat s, false) := by
  unfold pairBody readPair
  rw [if_neg h0, h]
  rfl

/-- The lines of `HUFPAIR` after a tree is chosen (R235) are those of the body. -/
theorem pairBody_of_tree (gr ch : Fin 2) {tbl : Nat} {s : State} {tree : Tree} (h0 : tbl ≠ 0)
    (h : s.cfg.pairTree tbl = some tree) :
    pairBody gr ch tbl s =
      match matchWord tree.entries s with
      | (none, t) => (raise .huffmanDecodeFailure s.cur.toNat t, false)
      | (some i, t) =>
        let x := escape (t.cfg.linbits tbl) (i / tree.dim) t
        let x := sign x.1 x.2
        let y := escape (t.cfg.linbits tbl) (i % tree.dim) x.2
        let y := sign y.1 y.2
        (storePair gr ch x.1 y.1 y.2, true) := by
  rw [matchWord_eq]
  unfold pairBody
  cases hmatch : (matchCode s.mdbuf tree.entries s.cursor).1 with
  | none =>
    rw [readPair_of_match_none h0 h hmatch]
    exact (failed_search gr ch s hmatch).symm
  | some i =>
    rw [readPair_of_match_some h0 h hmatch]
    simp only [applyCursor_cfg, escape_applyCursor, sign_applyCursor, storePair_applyCursor]
    rfl

theorem pairTree_of_ne {cfg : Config} {tbl : Nat} (h0 : tbl ≠ 0) (h : ¬ (tbl = 4 ∨ tbl = 14)) :
    cfg.pairTree tbl = lookupKey (treeOf tbl) cfg.htab := by
  unfold Config.pairTree
  exact if_neg (not_or.mpr ⟨h0, h⟩)

theorem pairTree_of_unused {cfg : Config} {tbl : Nat} (h : tbl = 4 ∨ tbl = 14) : cfg.pairTree tbl = none :=
  if_pos (.inr h)

/-- `HUFPAIR` of the rule is the body (R235), for every table id. -/
theorem hufpair_eq (gr ch : Fin 2) (tbl : Nat) (s : State) : hufpair gr ch tbl s = pairBody gr ch tbl s := by
  unfold hufpair
  by_cases h0 : tbl = 0
  · rw [if_pos h0, h0, pairBody_zero]
  rw [if_neg h0]
  by_cases hunused : tbl = 4 ∨ tbl = 14
  · rw [if_pos hunused, pairBody_of_no_tree gr ch h0 (pairTree_of_unused hunused)]
  rw [if_neg hunused]
  have htree := pairTree_of_ne (cfg := s.cfg) h0 hunused
  cases hlookup : lookupKey (treeOf tbl) s.cfg.htab with
  | none => exact (pairBody_of_no_tree gr ch h0 (htree.trans hlookup)).symm
  | some tree => exact (pairBody_of_tree gr ch h0 (htree.trans hlookup)).symm

/-! ### Quadruples -/

/-- The signs and the stores of a quadruple (R238) on a state that a cursor has moved on. -/
theorem quadValues_applyCursor (gr ch : Fin 2) (q : Nat) (c : Cursor) (s : State) :
    (quadValues gr ch q (applyCursor c s), true) =
      (let v := readSign s.mdbuf (q / 8 % 2) c
       let w := readSign s.mdbuf (q / 4 % 2) v.2
       let x := readSign s.mdbuf (q / 2 % 2) w.2
       let y := readSign s.mdbuf (q % 2) x.2
       storeWord gr ch (some [v.1, w.1, x.1, y.1]) y.2 s) := by
  simp only [quadValues, sign_applyCursor, storeQuad_applyCursor]
  rfl

/-- The four bits of code B inverted (R237). -/
theorem xor_fifteen {n : Nat} (h : n < 16) : n ^^^ 0xF = 15 - n := by
  revert n
  decide

theorem take_eq_cursor (n : Nat) (s : State) :
    take .mdbuf n s = ((s.cursor.take s.mdbuf n).1, applyCursor (s.cursor.take s.mdbuf n).2 s) :=
  take_applyCursor n s.cursor s

/-- `HUFQUAD` of the rule is the body (R238), for both codes. -/
theorem hufquad_eq (gr ch : Fin 2) (sel : Bool) (s : State) : hufquad gr ch sel s = quadBody gr ch sel s := by
  unfold hufquad quadBody readQuad readQuadIndex
  cases sel with
  | true =>
    have hnibble : (s.cursor.take s.mdbuf 4).1 < 16 := Buffer.bits_lt _ _ 4
    simp only [if_true, take_eq_cursor, xor_fifteen hnibble]
    exact quadValues_applyCursor gr ch _ _ s
  | false =>
    have hfail := failed_search (es := s.cfg.qtabA) gr ch s
    simp only [Bool.false_eq_true, if_false, matchWord_eq]
    generalize matchCode s.mdbuf s.cfg.qtabA s.cursor = found at hfail
    obtain ⟨_ | q, c⟩ := found
    · exact hfail rfl
    · exact quadValues_applyCursor gr ch q c s

end Sys2Proof.Reference

namespace Sys2Proof.Machine

theorem exec_hufpair {gr ch : Fin 2} {tbl : Fin 32} {s : State}
    (h : Reference.precondition (.hufpair gr ch tbl) s) :
    exec (.hufpair gr ch tbl) s = .next (pairBody gr ch tbl.val (accept s)).1 := by
  obtain ⟨hvalid, hchannel, hroom⟩ := h
  have hpre : pairPre ch (accept s) = true :=
    Bool.and_eq_true_iff.mpr ⟨granulePre_of_precondition (gr := gr) ⟨hvalid, hchannel⟩, decide_eq_true hroom⟩
  exact guarded_of_pre (i := .hufpair gr ch tbl) (body := fun s => (pairBody gr ch tbl.val s).1) hpre

theorem exec_hufquad {gr ch : Fin 2} {sel : Bool} {s : State}
    (h : Reference.precondition (.hufquad gr ch sel) s) :
    exec (.hufquad gr ch sel) s = .next (quadBody gr ch sel (accept s)).1 := by
  obtain ⟨hvalid, hchannel, hroom⟩ := h
  have hpre : quadPre ch (accept s) = true :=
    Bool.and_eq_true_iff.mpr ⟨granulePre_of_precondition (gr := gr) ⟨hvalid, hchannel⟩, decide_eq_true hroom⟩
  exact guarded_of_pre (i := .hufquad gr ch sel) (body := fun s => (quadBody gr ch sel s).1) hpre

/-- Settles O29: from its acceptance on the command is the rule. -/
theorem hufpairDecodesOnePair : Obligations.HufpairDecodesOnePair := by
  intro gr ch tbl s hpre
  rw [exec_hufpair hpre, accepted_eq, Reference.hufpair_eq]

/-- Settles O30: from its acceptance on the command is the rule. -/
theorem hufquadDecodesOneQuadruple : Obligations.HufquadDecodesOneQuadruple := by
  intro gr ch sel s hpre
  rw [exec_hufquad hpre, accepted_eq, Reference.hufquad_eq]

end Sys2Proof.Machine

/-! ## `SPEC` as its pseudocode (R240)

The rule's loops read the block `SI[gr][ch]` anew in every turn, the body's hold it: no code word writes it. Both
have more turns than they take, since each turn moves `IDX` on. -/

namespace Sys2Proof.Machine

/-- Every decoded pair moves `IDX` on by 2 (R235). -/
theorem pairBody_idx_toNat {gr ch : Fin 2} {tbl : Nat} {s : State} (hdec : (pairBody gr ch tbl s).2 = true)
    (hidx : s.idx.toNat < 576) : (pairBody gr ch tbl s).1.idx.toNat = s.idx.toNat + 2 := by
  rw [pairBody_idx, if_pos hdec, BitVec.toNat_add]
  exact Nat.mod_eq_of_lt (show s.idx.toNat + 2 < 1024 by omega)

/-- Every decoded quadruple moves `IDX` on by 4 (R238). -/
theorem quadBody_idx_toNat {gr ch : Fin 2} {sel : Bool} {s : State} (hdec : (quadBody gr ch sel s).2 = true)
    (hroom : s.idx.toNat + 4 ≤ 576) : (quadBody gr ch sel s).1.idx.toNat = s.idx.toNat + 4 := by
  rw [quadBody_idx, if_pos hdec]
  exact idx_add hroom

theorem pairBody_si (gr ch : Fin 2) (tbl : Nat) (s : State) : (pairBody gr ch tbl s).1.si = s.si :=
  same_of (pairBody_unchanged gr ch tbl s) (p := .si) (by decide)

theorem pairBody_r0 (gr ch : Fin 2) (tbl : Nat) (s : State) (g : SideBlock) :
    (pairBody gr ch tbl s).1.r0 g = s.r0 g := by
  have hcfg : (pairBody gr ch tbl s).1.cfg = s.cfg := same_of (pairBody_unchanged gr ch tbl s) (p := .cfg) (by decide)
  have hhdr : (pairBody gr ch tbl s).1.hdr = s.hdr := same_of (pairBody_unchanged gr ch tbl s) (p := .hdr) (by decide)
  unfold State.r0
  rw [hcfg, hhdr]

theorem pairBody_r1 (gr ch : Fin 2) (tbl : Nat) (s : State) (g : SideBlock) :
    (pairBody gr ch tbl s).1.r1 g = s.r1 g := by
  have hcfg : (pairBody gr ch tbl s).1.cfg = s.cfg := same_of (pairBody_unchanged gr ch tbl s) (p := .cfg) (by decide)
  have hhdr : (pairBody gr ch tbl s).1.hdr = s.hdr := same_of (pairBody_unchanged gr ch tbl s) (p := .hdr) (by decide)
  unfold State.r1
  rw [hcfg, hhdr]

theorem quadBody_si (gr ch : Fin 2) (sel : Bool) (s : State) : (quadBody gr ch sel s).1.si = s.si :=
  same_of (quadBody_unchanged gr ch sel s) (p := .si) (by decide)

/-! ### One turn of each loop of the body -/

theorem pairLoop_succ {gr ch : Fin 2} {g : SideBlock} (fuel : Nat) {s : State} (h : s.idx.toNat < bvEnd g) :
    pairLoop gr ch g (fuel + 1) s =
      if (pairBody gr ch (pairTable s g s.idx.toNat) s).2 then
        pairLoop gr ch g fuel (pairBody gr ch (pairTable s g s.idx.toNat) s).1
      else pairBody gr ch (pairTable s g s.idx.toNat) s := by
  rw [pairLoop, if_pos h]
  obtain ⟨t, _ | _⟩ := pairBody gr ch (pairTable s g s.idx.toNat) s <;> rfl

theorem pairLoop_done {gr ch : Fin 2} {g : SideBlock} (fuel : Nat) {s : State} (h : ¬ s.idx.toNat < bvEnd g) :
    pairLoop gr ch g fuel s = (s, true) := by
  cases fuel with
  | zero => rfl
  | succ fuel => rw [pairLoop, if_neg h]

theorem quadLoop_succ {gr ch : Fin 2} {g : SideBlock} {stop : Nat} (fuel : Nat) {s : State}
    (h : s.cur.toNat < stop ∧ s.idx.toNat + 4 ≤ 576) :
    quadLoop gr ch g stop (fuel + 1) s =
      if (quadBody gr ch (g.c1sel == 1) s).2 then quadLoop gr ch g stop fuel (quadBody gr ch (g.c1sel == 1) s).1
      else quadBody gr ch (g.c1sel == 1) s := by
  rw [quadLoop, if_pos h]
  obtain ⟨t, _ | _⟩ := quadBody gr ch (g.c1sel == 1) s <;> rfl

theorem quadLoop_done {gr ch : Fin 2} {g : SideBlock} {stop : Nat} (fuel : Nat) {s : State}
    (h : ¬ (s.cur.toNat < stop ∧ s.idx.toNat + 4 ≤ 576)) : quadLoop gr ch g stop fuel s = (s, true) := by
  cases fuel with
  | zero => rfl
  | succ fuel => rw [quadLoop, if_neg h]

end Sys2Proof.Machine

namespace Sys2Proof.Reference

open Sys2Proof.Machine

/-- The table of a pair is the one the rule chooses (R239). -/
theorem pairTable_eq (s : State) (g : SideBlock) :
    (if s.idx.toNat < s.r0 g then g.tsel0 else if s.idx.toNat < s.r1 g then g.tsel1 else g.tsel2).toNat =
      pairTable s g s.idx.toNat := by
  rw [pairTable, apply_ite BitVec.toNat, apply_ite BitVec.toNat]

/-- The big-value loop of the rule is the body's, each with turns enough for the pairs below `bvend` (R240). -/
theorem specPairs_eq (gr ch : Fin 2) (g : SideBlock) (m n : Nat) (s : State) (hg : s.si.get gr ch = g)
    (hm : bvEnd g ≤ s.idx.toNat + 2 * m) (hn : bvEnd g ≤ s.idx.toNat + 2 * n) :
    specPairs gr ch (bvEnd g) (s.r0 g) (s.r1 g) m s = pairLoop gr ch g n s := by
  induction m generalizing n s with
  | zero => rw [pairLoop_done n (by omega), specPairs]
  | succ m ih =>
    by_cases hlt : s.idx.toNat < bvEnd g
    case neg => rw [pairLoop_done n hlt, specPairs, if_neg hlt]
    case pos =>
      obtain ⟨n, rfl⟩ := Nat.exists_eq_succ_of_ne_zero (n := n) (by omega)
      have hend := bvEnd_le g
      rw [pairLoop_succ n hlt, specPairs, if_pos hlt]
      simp only [hg, hufpair_eq, pairTable_eq]
      split
      case isTrue hdec =>
        have hidx := pairBody_idx_toNat hdec (by omega)
        have hsi := pairBody_si gr ch (pairTable s g s.idx.toNat) s
        rw [← pairBody_r0 gr ch (pairTable s g s.idx.toNat) s g,
          ← pairBody_r1 gr ch (pairTable s g s.idx.toNat) s g]
        exact ih n _ (by rw [hsi, hg]) (by omega) (by omega)
      case isFalse => rfl

/-- The quadruple loop of the rule is the body's, each with turns enough for the room that is left (R240). -/
theorem specQuads_eq (gr ch : Fin 2) (g : SideBlock) (stop m n : Nat) (s : State)
    (hg : s.si.get gr ch = g) (hm : 576 < s.idx.toNat + 4 * m + 4) (hn : 576 < s.idx.toNat + 4 * n + 4) :
    specQuads gr ch stop m s = quadLoop gr ch g stop n s := by
  induction m generalizing n s with
  | zero => rw [quadLoop_done n (by omega), specQuads]
  | succ m ih =>
    by_cases hgo : s.cur.toNat < stop ∧ s.idx.toNat + 4 ≤ 576
    case neg => rw [quadLoop_done n hgo, specQuads, if_neg hgo]
    case pos =>
      obtain ⟨n, rfl⟩ := Nat.exists_eq_succ_of_ne_zero (n := n) (by omega)
      rw [quadLoop_succ n hgo, specQuads, if_pos hgo]
      simp only [hg, hufquad_eq]
      split
      case isTrue hdec =>
        have hidx := quadBody_idx_toNat hdec hgo.2
        have hsi := quadBody_si gr ch (g.c1sel == 1) s
        exact ih n _ (by rw [hsi, hg]) (by omega) (by omega)
      case isFalse => rfl

/-- The two loops of the rule are the body's (R240). -/
theorem specLoops_eq (gr ch : Fin 2) (g : SideBlock) (stop : Nat) (s : State) (hg : s.si.get gr ch = g) :
    (let d := specPairs gr ch (bvEnd g) (s.r0 g) (s.r1 g) 577 s
     if d.2 then specQuads gr ch stop 577 d.1 else d) = specLoops gr ch g stop s := by
  have hend := bvEnd_le g
  have hsi : (pairLoop gr ch g 288 s).1.si.get gr ch = g :=
    pairLoop_keeps (P := fun s => s.si.get gr ch = g) gr ch g 288 s hg
      fun tbl s _ h => by rw [pairBody_si, h]
  unfold specLoops
  simp only [specPairs_eq gr ch g 577 288 s hg (by omega) (by omega)]
  generalize pairLoop gr ch g 288 s = d at hsi
  obtain ⟨t, _ | _⟩ := d
  · rfl
  · exact specQuads_eq gr ch g stop 577 144 t hsi (by omega) (by omega)

/-- `SPEC` of the rule is the body (R239, R240). -/
theorem spec_eq (gr ch : Fin 2) (s : State) : spec gr ch s = specBody gr ch s := by
  have hloops := specLoops_eq gr ch (s.si.get gr ch) (s.granuleEnd (s.si.get gr ch)) (specStart gr ch s) rfl
  unfold specBody
  simp only
  rw [← hloops]
  rfl

end Sys2Proof.Reference

namespace Sys2Proof.Machine

/-- Settles O32: from its acceptance on the command is the rule. -/
theorem specDecodesTheGranule : Obligations.SpecDecodesTheGranule := by
  intro gr ch s hpre
  rw [exec_spec hpre, accepted_eq, Reference.spec_eq]

end Sys2Proof.Machine

/-! ## What the spectrum commands leave unchanged (R235, R238, R240) -/

namespace Sys2Proof.Machine

theorem writes_hufpair (gr ch : Fin 2) (tbl : Fin 32) :
    writes (.hufpair gr ch tbl) = Part.errors ++ [.samp, .idx, .cur] := rfl

theorem writes_hufquad (gr ch : Fin 2) (sel : Bool) :
    writes (.hufquad gr ch sel) = Part.errors ++ [.samp, .idx, .cur] := rfl

theorem writes_spec (gr ch : Fin 2) : writes (.spec gr ch) = Part.errors ++ [.samp, .idx, .si, .cur] := rfl

/-- A sample that a command's body leaves alone, the command leaves alone: `SequenceError` writes none. -/
theorem guarded_samp {i : Instr} {pre : State → Bool} {body : State → State} {s t : State} {a : Nat}
    (he : guarded i pre body s = .next t)
    (hbody : Memory.read (body (accept s)).samp a = Memory.read s.samp a) :
    Memory.read t.samp a = Memory.read s.samp a := by
  rcases guarded_cases he with ⟨-, rfl⟩ | ⟨-, rfl⟩
  · exact hbody
  · rfl

/-- A word of `n` values writes `n` samples from `IDX` on. -/
theorem storeWord_read_samp {gr ch : Fin 2} {vs : Option (List Int)} {n a : Nat} (c : Cursor) (s : State)
    (hlen : ∀ xs, vs = some xs → xs.length = n) (ha : ∀ j < n, a ≠ sampAddr gr ch (s.idx.toNat + j)) :
    Memory.read (storeWord gr ch vs c s).1.samp a = Memory.read s.samp a := by
  cases vs with
  | none => simp only [storeWord, raise_samp, noteMissing_samp]
  | some xs =>
    simp only [storeWord, applyCursor_samp]
    refine Memory.read_writeAll_of_not_mem _ _ _ fun kv hkv => ?_
    obtain ⟨j, hj, haddr⟩ := mem_sampWrites hkv
    rw [haddr]
    exact (ha j (hlen xs rfl ▸ hj)).symm

theorem pairBody_read_samp {gr ch : Fin 2} {tbl a : Nat} {s : State}
    (ha : ∀ j < 2, a ≠ sampAddr gr ch (s.idx.toNat + j)) :
    Memory.read (pairBody gr ch tbl s).1.samp a = Memory.read s.samp a := by
  refine storeWord_read_samp _ s (fun xs hxs => ?_) ha
  obtain ⟨p, -, rfl⟩ := Option.map_eq_some_iff.mp hxs
  rfl

theorem quadBody_read_samp {gr ch : Fin 2} {sel : Bool} {a : Nat} {s : State}
    (ha : ∀ j < 4, a ≠ sampAddr gr ch (s.idx.toNat + j)) :
    Memory.read (quadBody gr ch sel s).1.samp a = Memory.read s.samp a :=
  storeWord_read_samp _ s (fun _ => readQuad_length) ha

/-- Settles O50: the bodies write what their rules name, and of the samples what their words and the granule
hold; a failed precondition writes error registers only. -/
theorem spectrumFrames : Obligations.SpectrumFrames := by
  intro s t gr ch
  refine ⟨fun tbl he => ?pair, fun sel he => ?quad, fun he => ?spec⟩
  case pair =>
    change guarded (.hufpair gr ch tbl) (pairPre ch) (fun s => (pairBody gr ch tbl.val s).1) s = .next t at he
    rw [writes_hufpair]
    refine ⟨guarded_unchanged he (pairBody_unchanged gr ch tbl.val) (by decide), fun a h0 h1 => ?_⟩
    refine guarded_samp he (pairBody_read_samp fun j hj => ?_)
    match j with
    | 0 => exact h0
    | 1 => exact h1
  case quad =>
    change guarded (.hufquad gr ch sel) (quadPre ch) (fun s => (quadBody gr ch sel s).1) s = .next t at he
    rw [writes_hufquad]
    exact ⟨guarded_unchanged he (quadBody_unchanged gr ch sel) (by decide),
      fun a ha => guarded_samp he (quadBody_read_samp ha)⟩
  case spec =>
    change guarded (.spec gr ch) (granulePre ch) (fun s => (specBody gr ch s).1) s = .next t at he
    rw [writes_spec]
    exact ⟨guarded_unchanged he (specBody_unchanged gr ch) (by decide),
      fun a ha => guarded_samp he ((specBody_samples gr ch (accept s)).1.outside a ha)⟩

end Sys2Proof.Machine

/-! ## Complete tables (R231)

A table is complete where every long enough bit string begins with one of its code words. A code word of `len` bits
begins the `2 ^ (n - len)` strings of `n` bits whose values lie next to one another, so the strings that a table
reaches are counted off as the bits of one number: bit `p` for the string of value `p`. -/

namespace Sys2Proof.Machine

/-- The strings of `n` bits that begin with a code word. -/
def wordSpan (n : Nat) (e : CodeWord) : Nat := (2 ^ 2 ^ (n - e.len) - 1) <<< (e.code * 2 ^ (n - e.len))

/-- The strings of `n` bits that begin with a code word of the table. -/
def tableSpan (n : Nat) (es : List CodeWord) : Nat := es.foldr (fun e m => wordSpan n e ||| m) 0

/-- The length of the longest code word. -/
def longestWord (es : List CodeWord) : Nat := es.foldr (fun e n => max e.len n) 0

/-- Whether every string as long as the longest code word begins with a code word, all of 1 to 32 bits. -/
def completeTable (es : List CodeWord) : Bool :=
  (es.all fun e => decide (1 ≤ e.len ∧ e.len ≤ 32)) &&
    tableSpan (longestWord es) es == 2 ^ 2 ^ longestWord es - 1

theorem wordSpan_testBit {n p : Nat} {e : CodeWord} :
    (wordSpan n e).testBit p = true ↔ p / 2 ^ (n - e.len) = e.code := by
  have hpos : 0 < 2 ^ (n - e.len) := Nat.two_pow_pos _
  rw [wordSpan, Nat.testBit_shiftLeft, Nat.testBit_two_pow_sub_one, Bool.and_eq_true_iff, decide_eq_true_iff,
    decide_eq_true_iff, Nat.div_eq_iff hpos]
  omega

theorem tableSpan_testBit {n p : Nat} {es : List CodeWord} (h : (tableSpan n es).testBit p = true) :
    ∃ e ∈ es, p / 2 ^ (n - e.len) = e.code := by
  induction es with
  | nil => simp [tableSpan] at h
  | cons e es ih =>
    have hor : (wordSpan n e ||| tableSpan n es).testBit p = true := h
    rw [Nat.testBit_or] at hor
    rcases Bool.or_eq_true_iff.mp hor with h | h
    · exact ⟨e, List.mem_cons_self, wordSpan_testBit.mp h⟩
    · obtain ⟨f, hf, hp⟩ := ih h
      exact ⟨f, List.mem_cons_of_mem _ hf, hp⟩

theorem len_le_longestWord {e : CodeWord} {es : List CodeWord} (h : e ∈ es) : e.len ≤ longestWord es := by
  induction es with
  | nil => cases h
  | cons f es ih =>
    have hmax : longestWord (f :: es) = max f.len (longestWord es) := rfl
    rw [hmax]
    rcases List.mem_cons.mp h with rfl | h
    · exact Nat.le_max_left _ _
    · exact (ih h).trans (Nat.le_max_right _ _)

/-- A complete table has a code word at every offset of every buffer. -/
theorem exists_word_of_complete {es : List CodeWord} (h : completeTable es = true) (b : Buffer) (off : Nat) :
    ∃ n, 1 ≤ n ∧ n ≤ 32 ∧ b.word off n ∈ es := by
  obtain ⟨hlens, hspan⟩ := Bool.and_eq_true_iff.mp h
  have hreached : (tableSpan (longestWord es) es).testBit (b.bits off (longestWord es)) = true := by
    rw [eq_of_beq hspan, Nat.testBit_two_pow_sub_one]
    exact decide_eq_true (Buffer.bits_lt _ _ _)
  obtain ⟨e, hmem, hcode⟩ := tableSpan_testBit hreached
  obtain ⟨hlo, hhi⟩ := of_decide_eq_true (List.all_eq_true.mp hlens _ hmem)
  rw [b.bits_div off (len_le_longestWord hmem)] at hcode
  have hword : b.word off e.len = e := by rw [Buffer.word, hcode]
  exact ⟨e.len, hlo, hhi, by rwa [hword]⟩

/-- With a complete table the search finds an entry, whatever the bits (R232). -/
theorem matchCode_of_complete {es : List CodeWord} (h : completeTable es = true) (b : Buffer) (c : Cursor) :
    ∃ i, (matchCode b es c).1 = some i := by
  obtain ⟨n, hlo, hhi, hmem⟩ := exists_word_of_complete h b c.cur.toNat
  rcases matchCode_cases b es c with ⟨i, -, hi, -⟩ | ⟨-, hnone⟩
  · exact ⟨i, hi⟩
  · exact absurd hmem (hnone n hlo hhi)

/-! ### The default tables -/

theorem defaultHtab_complete : ∀ p ∈ defaultHtab, completeTable p.2.entries = true := by decide +kernel

theorem quadTableA_complete : completeTable quadTableA = true := by decide +kernel

end Sys2Proof.Machine

/-! ## Decoding with the default tables (R231, R233, R236) -/

namespace Sys2Proof.Machine

/-! ### The tree of a table id -/

theorem mem_of_lookupKey {α : Type} {k : Nat} {l : List (Nat × α)} {v : α} (h : lookupKey k l = some v) :
    (k, v) ∈ l := by
  induction l with
  | nil => cases h
  | cons p l ih =>
    obtain ⟨a, x⟩ := p
    unfold lookupKey at h
    split at h
    · rename_i hk
      cases h
      exact hk ▸ List.mem_cons_self
    · exact List.mem_cons_of_mem _ (ih h)

/-- A table id with a tree is not 0, and its tree is one of the configuration's (R233). -/
theorem pairTree_some {cfg : Config} {tbl : Nat} {tree : Tree} (h : cfg.pairTree tbl = some tree) :
    tbl ≠ 0 ∧ (treeOf tbl, tree) ∈ cfg.htab := by
  unfold Config.pairTree at h
  split at h
  case isTrue => cases h
  case isFalse hused => exact ⟨(not_or.mp hused).1, mem_of_lookupKey h⟩

/-- With the default tables every id but 0, 4 and 14 has its tree (R233). -/
theorem default_pairTree_isNone : ∀ tbl : Fin 32,
    (Config.default.pairTree tbl.val).isNone = true ↔ tbl = 0 ∨ tbl = 4 ∨ tbl = 14 := by decide

/-! ### No search fails -/

/-- `LASTERR` after a word: 0 or TruncatedInput where it was decoded, else HuffmanDecodeFailure (60_exceptions.md
R352, R355). -/
theorem storeWord_lastErr {gr ch : Fin 2} {vs : Option (List Int)} {c : Cursor} {s : State} (h : s.lastErr = 0) :
    (storeWord gr ch vs c s).1.lastErr = 3 ↔ vs = none := by
  cases vs with
  | none => exact iff_of_true rfl rfl
  | some xs =>
    refine iff_of_false ?_ (Option.some_ne_none xs)
    unfold storeWord applyCursor
    cases c.miss with
    | none =>
      simp only [noteMissing_none, h]
      decide
    | some off =>
      simp only [noteMissing_some, raise_lastErr, h]
      decide

/-- With the default tables a pair fails to decode for the table ids without a tree only. -/
theorem readPair_default_none (b : Buffer) (tbl : Fin 32) (c : Cursor) :
    (readPair Config.default b tbl.val c).1 = none ↔ tbl = 4 ∨ tbl = 14 := by
  have hiff := default_pairTree_isNone tbl
  cases htree : Config.default.pairTree tbl.val with
  | some tree =>
    rw [htree] at hiff
    obtain ⟨h0, hmem⟩ := pairTree_some htree
    obtain ⟨i, hi⟩ := matchCode_of_complete (defaultHtab_complete _ hmem) b c
    rw [readPair_of_match_some h0 htree hi]
    exact iff_of_false (Option.some_ne_none _) fun hunused => Bool.false_ne_true (hiff.mpr (.inr hunused))
  | none =>
    rw [htree] at hiff
    rcases hiff.mp rfl with rfl | hunused
    · exact iff_of_false (Option.some_ne_none _) (by decide)
    · have h0 : tbl.val ≠ 0 := by rcases hunused with rfl | rfl <;> decide
      unfold readPair
      rw [if_neg h0, htree]
      exact iff_of_true rfl hunused

/-- With the default tables a quadruple never fails to decode. -/
theorem readQuad_default_ne_none (b : Buffer) (sel : Bool) (c : Cursor) :
    (readQuad Config.default b sel c).1 ≠ none := by
  have hindex : ∃ q, (readQuadIndex Config.default b sel c).1 = some q := by
    cases sel with
    | true => exact ⟨_, rfl⟩
    | false => exact matchCode_of_complete quadTableA_complete b c
  obtain ⟨q, hq⟩ := hindex
  unfold readQuad
  rw [← Prod.mk.eta (p := readQuadIndex Config.default b sel c), hq]
  exact Option.some_ne_none _

/-- Settles O28: HuffmanDecodeFailure is recorded exactly where a word is not decoded, and the default tables are
complete. -/
theorem defaultTablesNeverFailToMatch : Obligations.DefaultTablesNeverFailToMatch := by
  intro s hcfg
  refine ⟨fun gr ch tbl t hpre he => ?_, fun gr ch sel t hpre he => ?_⟩
  · rw [exec_hufpair hpre] at he
    cases he
    unfold pairBody
    rw [storeWord_lastErr rfl, Option.map_eq_none_iff, accept_cfg, hcfg, readPair_default_none]
  · rw [exec_hufquad hpre] at he
    cases he
    unfold quadBody
    rw [Ne, storeWord_lastErr rfl, accept_cfg, hcfg]
    exact readQuad_default_ne_none _ _ _

/-! ### The values decoded (R236) -/

/-- The dimensions of the default trees: `dim · dim` entries for magnitudes up to 15 (R231). -/
theorem defaultHtab_dim : ∀ p ∈ defaultHtab, p.2.entries.length = p.2.dim * p.2.dim ∧ p.2.dim ≤ 16 := by
  decide +kernel

/-- R234: `LINBITS_TAB` holds at most 13. -/
theorem default_linbits_le (tbl : Nat) : Config.default.linbits tbl ≤ 13 := by
  by_cases h : tbl < 32
  · have hall : ∀ k < 32, Config.default.linbits k ≤ 13 := by decide
    exact hall tbl h
  · have hbeyond : Config.default.linbits tbl = 0 := List.getD_eq_default _ _ (Nat.le_of_not_lt h)
    rw [hbeyond]
    exact Nat.zero_le _

/-- A sign does not change the magnitude. -/
theorem readSign_natAbs (b : Buffer) (m : Nat) (c : Cursor) : (readSign b m c).1.natAbs = m := by
  unfold readSign
  split
  case isTrue h => exact h.symm
  case isFalse => split <;> simp

/-- A magnitude of at most 15 with an escape of at most 13 bits is at most `15 + 2^13 - 1 = 8206` (R236). -/
theorem readEscape_le {lb x : Nat} (b : Buffer) (c : Cursor) (hlb : lb ≤ 13) (hx : x ≤ 15) :
    (readEscape b lb x c).1 ≤ 8206 := by
  unfold readEscape
  split
  case isTrue =>
    have hbits : (c.take b lb).1 < 2 ^ lb := Buffer.bits_lt _ _ _
    have hpow : 2 ^ lb ≤ 2 ^ 13 := Nat.pow_le_pow_right (by decide) hlb
    simp only
    omega
  case isFalse =>
    simp only
    omega

theorem readValue_natAbs_le {lb x : Nat} (b : Buffer) (c : Cursor) (hlb : lb ≤ 13) (hx : x ≤ 15) :
    (readValue b lb x c).1.natAbs ≤ 8206 := by
  rw [readValue, readSign_natAbs]
  exact readEscape_le b c hlb hx

/-- The number of an entry found gives two magnitudes below the tree's dimension (R231). -/
theorem entry_lt_dim {tree : Tree} {b : Buffer} {c : Cursor} {i : Nat}
    (hdim : tree.entries.length = tree.dim * tree.dim) (h : (matchCode b tree.entries c).1 = some i) :
    i / tree.dim < tree.dim ∧ i % tree.dim < tree.dim := by
  obtain ⟨n, hentry, -⟩ := matchCode_some h
  have hi : i < tree.dim * tree.dim := hdim ▸ (List.getElem?_eq_some_iff.mp hentry).1
  exact ⟨Nat.div_lt_of_lt_mul hi, Nat.mod_lt _ (Nat.pos_of_mul_pos_left (Nat.zero_lt_of_lt hi))⟩

theorem readPair_default_natAbs_le {b : Buffer} {tbl : Nat} {c : Cursor} {p : Int × Int}
    (h : (readPair Config.default b tbl c).1 = some p) : p.1.natAbs ≤ 8206 ∧ p.2.natAbs ≤ 8206 := by
  by_cases h0 : tbl = 0
  · rw [readPair, if_pos h0] at h
    cases h
    decide
  cases htree : Config.default.pairTree tbl with
  | none =>
    rw [readPair, if_neg h0, htree] at h
    cases h
  | some tree =>
    cases hmatch : (matchCode b tree.entries c).1 with
    | none =>
      rw [readPair_of_match_none h0 htree hmatch] at h
      cases h
    | some i =>
      rw [readPair_of_match_some h0 htree hmatch] at h
      cases h
      obtain ⟨hdim, hle⟩ : tree.entries.length = tree.dim * tree.dim ∧ tree.dim ≤ 16 :=
        defaultHtab_dim _ (pairTree_some htree).2
      obtain ⟨hx, hy⟩ := entry_lt_dim hdim hmatch
      have hlb := default_linbits_le tbl
      exact ⟨readValue_natAbs_le _ _ hlb (by omega), readValue_natAbs_le _ _ hlb (by omega)⟩

/-- The four values of a quadruple are 0, 1 or -1 (R238). -/
theorem readQuad_natAbs_le {cfg : Config} {b : Buffer} {sel : Bool} {c : Cursor} {vs : List Int}
    (h : (readQuad cfg b sel c).1 = some vs) : ∀ x ∈ vs, x.natAbs ≤ 1 := by
  unfold readQuad at h
  split at h
  · cases h
  · cases h
    simp only [List.forall_mem_cons, readSign_natAbs, List.not_mem_nil, false_implies, implies_true, and_true]
    omega

/-! ### Samples in range -/

/-- After several writes an address holds what it held or a value written. -/
theorem Memory.forall_read_writeAll {w : Nat} {P : BitVec w → Prop} {m : Memory w} {kvs : List (Nat × BitVec w)}
    (hm : ∀ a, P (Memory.read m a)) (hkvs : ∀ kv ∈ kvs, P kv.2) :
    ∀ a, P (Memory.read (Memory.writeAll m kvs) a) := by
  induction kvs generalizing m with
  | nil => exact hm
  | cons kv kvs ih =>
    obtain ⟨hkv, hrest⟩ := List.forall_mem_cons.mp hkvs
    refine ih (fun a => ?_) hrest
    rw [Memory.read_write]
    split
    · exact hkv
    · exact hm a

/-- A number in the range of R236 is its own 16-bit two's complement value. -/
theorem toInt_ofInt_range {v : Int} (h : v.natAbs ≤ 8206) :
    -8206 ≤ (BitVec.ofInt 16 v).toInt ∧ (BitVec.ofInt 16 v).toInt ≤ 8206 := by
  rw [BitVec.toInt_ofInt, Int.bmod_eq_of_le (by omega) (by omega)]
  omega

theorem storeWord_samplesInRange {gr ch : Fin 2} {vs : Option (List Int)} (c : Cursor) {s : State}
    (hvs : ∀ xs, vs = some xs → ∀ x ∈ xs, x.natAbs ≤ 8206) (h : s.SamplesInRange) :
    (storeWord gr ch vs c s).1.SamplesInRange := by
  unfold State.SamplesInRange at h ⊢
  cases vs with
  | none =>
    simp only [storeWord, raise_samp, noteMissing_samp]
    exact h
  | some xs =>
    simp only [storeWord, applyCursor_samp]
    refine Memory.forall_read_writeAll (P := fun v => -8206 ≤ v.toInt ∧ v.toInt ≤ 8206) h fun kv hkv => ?_
    obtain ⟨p, hp, rfl⟩ := List.mem_map.mp hkv
    exact toInt_ofInt_range (hvs xs rfl _ (List.fst_mem_of_mem_zipIdx hp))

theorem samplesInRange_of_zero {s : State} (h : ∀ a, Memory.read s.samp a = 0) : s.SamplesInRange := by
  intro a
  rw [h]
  decide

/-- The default tables and samples in range: what a step keeps together. -/
def State.DefaultSamples (s : State) : Prop := s.cfg = Config.default ∧ s.SamplesInRange

theorem defaultSamples_looksAt : DependsOn [.cfg, .samp] State.DefaultSamples := by
  intro s t hsame ⟨hcfg, hrange⟩
  have hcfg' : t.cfg = s.cfg := hsame .cfg (by decide)
  have hsamp : sameReads s.samp t.samp := hsame .samp (by decide)
  refine ⟨hcfg'.trans hcfg, fun a => ?_⟩
  rw [hsamp a]
  exact hrange a

namespace State.DefaultSamples

theorem pairBody {s : State} (h : s.DefaultSamples) (gr ch : Fin 2) (tbl : Nat) :
    (pairBody gr ch tbl s).1.DefaultSamples := by
  obtain ⟨hcfg, hrange⟩ := h
  have hsame : (Machine.pairBody gr ch tbl s).1.cfg = s.cfg :=
    same_of (pairBody_unchanged gr ch tbl s) (p := .cfg) (by decide)
  refine ⟨hsame.trans hcfg, storeWord_samplesInRange _ (fun xs hxs => ?_) hrange⟩
  obtain ⟨p, hp, rfl⟩ := Option.map_eq_some_iff.mp hxs
  rw [hcfg] at hp
  obtain ⟨hx, hy⟩ := readPair_default_natAbs_le hp
  exact List.forall_mem_cons.mpr ⟨hx, List.forall_mem_singleton.mpr hy⟩

theorem quadBody {s : State} (h : s.DefaultSamples) (gr ch : Fin 2) (sel : Bool) :
    (quadBody gr ch sel s).1.DefaultSamples := by
  obtain ⟨hcfg, hrange⟩ := h
  have hsame : (Machine.quadBody gr ch sel s).1.cfg = s.cfg :=
    same_of (quadBody_unchanged gr ch sel s) (p := .cfg) (by decide)
  exact ⟨hsame.trans hcfg, storeWord_samplesInRange _
    (fun _ hxs x hx => (readQuad_natAbs_le hxs x hx).trans (by decide)) hrange⟩

theorem specStart {s : State} (h : s.DefaultSamples) (gr ch : Fin 2) : (specStart gr ch s).DefaultSamples := by
  obtain ⟨hcfg, hrange⟩ := h
  refine ⟨hcfg, fun a => ?_⟩
  simp only [Machine.specStart, Memory.read_clear]
  split
  · decide
  · exact hrange a

/-- Only a code word writes a sample other than 0, and the samples and the tables are all that is looked at. -/
theorem keptByStep : KeptByStep State.DefaultSamples where
  raise c n s := defaultSamples_looksAt.keep (raise_unchanged c n s) (by decide)
  sinit s := defaultSamples_looksAt.keep (sinitBody_unchanged s) (by decide)
  hdr s := defaultSamples_looksAt.keep (hdrBody_unchanged s) (by decide)
  side s _ _ := defaultSamples_looksAt.keep (sideBody_unchanged s) (by decide)
  resv s _ := defaultSamples_looksAt.keep (resvBody_unchanged s) (by decide)
  scf gr ch s _ := defaultSamples_looksAt.keep (scfBody_unchanged gr ch s) (by decide)
  adv s := defaultSamples_looksAt.keep (advBody_unchanged s) (by decide)
  pair gr ch tbl _ _ h := h.pairBody gr ch tbl
  quad gr ch sel _ _ h := h.quadBody gr ch sel
  specStart gr ch _ h := h.specStart gr ch
  specEnd gr ch stop s _ := defaultSamples_looksAt.keep (specEnd_unchanged gr ch stop s) (by decide)
  acinit d s := match d with
    | .encode => defaultSamples_looksAt.keep (acinitBody_unchanged_encode s) (by decide)
    | .decode => defaultSamples_looksAt.keep (acinitBody_unchanged_decode s) (by decide)
  enc y s _ := defaultSamples_looksAt.keep (encBody_unchanged y s) (by decide)
  dec s _ := defaultSamples_looksAt.keep (decBody_unchanged s) (by decide)
  flush s _ := defaultSamples_looksAt.keep (flushBody_unchanged s) (by decide)
  idle s := defaultSamples_looksAt.keep (acMode_unchanged s _) (by decide)
  appendPlain _ s := defaultSamples_looksAt.keep (setBuf_unchanged_plain s _) (by decide)
  clearPlain s := defaultSamples_looksAt.keep (setBuf_unchanged_plain s _) (by decide)
  appendObuf _ s := defaultSamples_looksAt.keep (setBuf_unchanged_obuf s _) (by decide)
  countFrame s := defaultSamples_looksAt.keep (frames_unchanged s _) (by decide)
  zero _ h := ⟨h.1, samplesInRange_of_zero Memory.read_nil⟩
  skipByte s _ _ := defaultSamples_looksAt.keep (skipByte_unchanged s) (by decide)
  skipFrame s _ := defaultSamples_looksAt.keep (skipFrame_unchanged s) (by decide)
  done s := defaultSamples_looksAt.keep (done_unchanged s) (by decide)
  accept s := defaultSamples_looksAt.keep (accept_unchanged s) (by decide)
  clearErrors s := defaultSamples_looksAt.keep (clearErrors_unchanged s) (by decide)
  srst _ h := ⟨h.1, samplesInRange_of_zero Memory.read_nil⟩
  rdbits b adv n s := defaultSamples_looksAt.keep (rdbitsBody_unchanged b adv n s) (by cases adv <;> decide)
  regWrite n v s h := by
    rcases regWrite_cases n v s with he | he | he
    · rw [he]
      exact ⟨h.1, h.2⟩
    · rw [he]
      exact ⟨h.1, h.2⟩
    · exact defaultSamples_looksAt.keep he (by decide) h
  bufLoad b bytes s hm ho h := by
    rcases bufLoad_cases bytes s hm ho with he | he
    · rw [he]
      exact ⟨h.1, h.2⟩
    · exact defaultSamples_looksAt.keep he (by decide) h
  readout ws s := defaultSamples_looksAt.keep (readout_unchanged s ws) (by decide)
  host ops s := defaultSamples_looksAt.keep (host_unchanged s ops) (by decide)

end State.DefaultSamples

/-- Settles O31: every decoded value is in range, and nothing else is stored but 0. -/
theorem samplesStayInRange : Obligations.SamplesStayInRange :=
  fun s t hcfg hrange hstep => State.DefaultSamples.keptByStep.step s t ⟨hcfg, hrange⟩ hstep

end Sys2Proof.Machine

/-! ## The coder commands (44_arithmetic_coder.md R281 to R290) -/

namespace Sys2Proof.Machine

theorem exec_acinit (dir : Dir) (s : State) : exec (.acinit dir) s = .next (acinitBody dir (accept s)) := rfl

theorem exec_acencb_guarded (y : Bool) (s : State) : exec (.acencb y) s =
    guarded (.acencb y) (fun s => s.acMode == .encoding) (fun s => (encBody y s).state) s := rfl

theorem exec_acdecb_guarded (s : State) : exec .acdecb s =
    guarded .acdecb (fun s => s.acMode == .decoding) (fun s => (decBody s).1) s := rfl

theorem exec_acflush_guarded (s : State) : exec .acflush s =
    guarded .acflush (fun s => s.acMode == .encoding) (fun s => (flushBody s).state) s := rfl

theorem exec_acencb (y : Bool) {s : State} (h : s.acMode = .encoding) :
    exec (.acencb y) s = .next (encBody y (accept s)).state := by
  rw [exec_acencb_guarded]
  exact guarded_of_pre (beq_iff_eq.mpr h)

theorem exec_acdecb {s : State} (h : s.acMode = .decoding) :
    exec .acdecb s = .next (decBody (accept s)).1 := by
  rw [exec_acdecb_guarded]
  exact guarded_of_pre (beq_iff_eq.mpr h)

theorem exec_acflush {s : State} (h : s.acMode = .encoding) :
    exec .acflush s = .next (flushBody (accept s)).state := by
  rw [exec_acflush_guarded]
  exact guarded_of_pre (beq_iff_eq.mpr h)

theorem exec_acenc (s : State) : exec .acenc s = .next (acencBody (accept s)).state := rfl

theorem exec_acdec (s : State) :
    exec .acdec s = acdecLoop (acdecFuel s) (acinitBody .decode (accept s)) := rfl

/-! ### `ACINIT` (R281) -/

theorem reference_acinit_eq (dir : Dir) (s : State) : Reference.acinit dir s = acinitBody dir s := by
  cases dir with
  | encode => rfl
  | decode =>
    simp only [Reference.acinit, Reference.nextByte_eq]
    rfl

/-- Settles O36: `NextByte` is the machine's pull, and a decoder pulls four bytes from `CPOS` 0. -/
theorem acinitStartsTheCoder : Obligations.AcinitStartsTheCoder := by
  refine ⟨fun dir s => ?_, fun s => ⟨_, exec_acinit .decode s, rfl, rfl⟩⟩
  rw [exec_acinit, accepted_eq, reference_acinit_eq]

/-! ### `ACFLUSH` (R290) -/

/-- Appends that all have room go on, with the bytes at the end (20_memory.md R97). -/
theorem appendAll_of_hasRoom {b : BufId} (vs : List Byte) {s : State} (h : s.hasRoom b vs.length) :
    appendAll b vs s = .go (s.setBuf b ((s.buf b).appendList vs)) := by
  induction vs generalizing s with
  | nil => simp [appendAll]
  | cons v vs ih =>
    have hfull : s.full b = false := by
      unfold State.full
      split
      · rfl
      · rename_i c hc
        have := h c hc
        rw [List.length_cons] at this
        exact decide_eq_false (by omega)
    have hrest : (s.setBuf b ((s.buf b).append v)).hasRoom b vs.length := by
      intro c hc
      rw [setBuf_cap] at hc
      have := h c hc
      rw [List.length_cons] at this
      simp only [setBuf_buf, if_true, Buffer.append_len]
      omega
    have happ : append b v s = .go (s.setBuf b ((s.buf b).append v)) := by
      rw [append, hfull]
      rfl
    rw [appendAll, happ, Flow.bind_go, ih hrest]
    simp [Buffer.appendList_cons]

theorem flushBody_of_hasRoom {s : State} (h : s.hasRoom .code 4) :
    flushBody s = .go { s with code := s.code.appendList (wordBytes s.ac.low), acMode := .idle } := by
  rw [flushBody, appendAll_of_hasRoom (wordBytes s.ac.low) h]
  rfl

/-- Settles O39: with room for four bytes every append of the flush goes on. -/
theorem acflushAppendsLow : Obligations.AcflushAppendsLow := by
  intro s hmode hroom
  refine ⟨s.code.appendList (wordBytes s.ac.low), ?_, Buffer.bytes_appendList _ _⟩
  rw [exec_acflush hmode, flushBody_of_hasRoom (s := accept s) hroom]
  rfl

end Sys2Proof.Machine

/-! ## The split point and the model update (R282, R284, R285) -/

namespace Sys2Proof.Machine

theorem Coder.topAgree_eq_false {c : Coder} (h : c.low.extractLsb' 24 8 ≠ c.high.extractLsb' 24 8) :
    c.topAgree = false := beq_eq_false_iff_ne.mpr h

/-- Settles O34: the exact split stays below an upper bound that lies above `LOW`. -/
theorem splitPointIsInsideTheInterval : Obligations.SplitPointIsInsideTheInterval := by
  intro s r hok
  have hlt := Coder.lt_of_topAgree hok.interval (Coder.topAgree_eq_false hok.topBytes)
  exact ⟨s.ac.prob_le r, (Reference.mid_eq s.ac r hok.interval).symm, s.ac.low_le_mid r hok.interval,
    s.ac.mid_lt_high r hlt⟩

/-- Counts of other contexts and regions are as before, whatever the coded count is (R284). -/
theorem Coder.read_countUp_of_ne (c : Coder) (r : Nat) (y : Bool) {a : Nat}
    (h : ∀ v, a ≠ cntAddr r c.ctx.toNat v) : Memory.read (c.countUp r y) a = Memory.read c.cnt a := by
  unfold Coder.countUp
  simp only
  split
  · simp only [Memory.read_write, if_neg (h _)]
  · simp only [Memory.read_write, if_neg (h _)]

/-- Before the ninth decision the context takes the bit and `POS` stays (R284). -/
theorem Coder.update_of_lt (c : Coder) (r : Nat) (y : Bool) (h : c.ctx.toNat < 256) :
    (c.update r y).ctx.toNat = 2 * c.ctx.toNat + y.toNat ∧ (c.update r y).pos = c.pos := by
  have hy := Bool.toNat_le y
  have hctx : ¬ 512 ≤ 2 * c.ctx.toNat + y.toNat := by omega
  unfold Coder.update
  simp only [if_neg hctx, BitVec.toNat_ofNat, and_true]
  exact Nat.mod_eq_of_lt (by omega)

/-- The ninth decision of a symbol starts a new context and moves `POS` on (R284). -/
theorem Coder.update_of_ge (c : Coder) (r : Nat) (y : Bool) (h : 256 ≤ c.ctx.toNat) :
    (c.update r y).ctx = 1 ∧ (c.update r y).pos = c.pos + 1 := by
  have hctx : 512 ≤ 2 * c.ctx.toNat + y.toNat := by omega
  unfold Coder.update
  simp only [if_pos hctx, and_self]

/-- Below the ceiling the coded count is one up and the other as before (R284). -/
theorem Coder.countUp_of_lt (c : Coder) (r : Nat) (y : Bool)
    (h : (Memory.read c.cnt (cntAddr r c.ctx.toNat y)).toNat < 65534) :
    (Memory.read (c.countUp r y) (cntAddr r c.ctx.toNat y)).toNat =
        (Memory.read c.cnt (cntAddr r c.ctx.toNat y)).toNat + 1 ∧
      Memory.read (c.countUp r y) (cntAddr r c.ctx.toNat !y) =
        Memory.read c.cnt (cntAddr r c.ctx.toNat !y) := by
  have hread := fun a => c.read_countUp r y a (by omega)
  rw [hread, hread, if_pos h, if_pos h, if_pos rfl, if_neg (cntAddr_not_ne _ _ _)]
  exact ⟨by rw [BitVec.toNat_add]; exact Nat.mod_eq_of_lt (by simp; omega), rfl⟩

/-- At the ceiling both counts are halved, the coded one after it was counted (R284). -/
theorem Coder.countUp_of_ceil (c : Coder) (r : Nat) (y : Bool)
    (h : (Memory.read c.cnt (cntAddr r c.ctx.toNat y)).toNat = 65534) :
    Memory.read (c.countUp r y) (cntAddr r c.ctx.toNat y) = 32767 ∧
      (Memory.read (c.countUp r y) (cntAddr r c.ctx.toNat !y)).toNat =
        (Memory.read c.cnt (cntAddr r c.ctx.toNat !y)).toNat / 2 := by
  have hread := fun a => c.read_countUp r y a (by omega)
  have hceil : ¬ (Memory.read c.cnt (cntAddr r c.ctx.toNat y)).toNat < 65534 := by omega
  rw [hread, hread, if_neg hceil, if_neg hceil, if_pos rfl, if_neg (cntAddr_not_ne _ _ _), if_pos rfl,
    BitVec.toNat_ushiftRight, Nat.shiftRight_eq_div_pow]
  exact ⟨rfl, rfl⟩

/-- Settles O35: the counts, the context and `POS` case by case; nothing else is written. -/
theorem modelUpdateCountsTheDecision : Obligations.ModelUpdateCountsTheDecision := by
  intro c r y _ _
  refine ⟨fun hlt => ?_, fun hceil => ?_, fun a => c.read_countUp_of_ne r y, c.update_of_lt r y,
    c.update_of_ge r y, rfl, rfl, rfl, rfl⟩
  · obtain ⟨hcoded, hother⟩ := c.countUp_of_lt r y hlt
    exact ⟨hcoded, congrArg BitVec.toNat hother⟩
  · obtain ⟨hcoded, hother⟩ := c.countUp_of_ceil r y hceil
    exact ⟨congrArg BitVec.toNat hcoded, hother⟩

end Sys2Proof.Machine

/-! ## The interval between decisions (R292)

A renormalisation runs until the top bytes of the bounds differ. What it does to the bounds and the bytes it
sends out are the same for the encoder and the decoder. -/

namespace Sys2Proof.Machine

/-- The bounds are in order and differ in their top byte. -/
structure Coder.Ready (c : Coder) : Prop where
  le : c.low.toNat ≤ c.high.toNat
  top : c.topAgree = false

theorem Coder.Ready.lt {c : Coder} (h : c.Ready) : c.low.toNat < c.high.toNat := Coder.lt_of_topAgree h.le h.top

theorem Coder.ready_congr {c c' : Coder} (hlow : c'.low = c.low) (hhigh : c'.high = c.high) (h : c.Ready) :
    c'.Ready := by
  refine ⟨by rw [hlow, hhigh]; exact h.le, ?_⟩
  rw [Coder.topAgree, hlow, hhigh]
  exact h.top

theorem Coder.fresh_ready (c : Coder) : c.fresh.Ready where
  le := Nat.zero_le _
  top := (by decide : ((0#32).extractLsb' 24 8 == (0xFFFFFFFF#32).extractLsb' 24 8) = false)

theorem acinitBody_ready (dir : Dir) (s : State) : (acinitBody dir s).ac.Ready :=
  match dir with
  | .encode => s.ac.fresh_ready
  | .decode => Coder.ready_congr (c := s.ac.fresh) rfl rfl s.ac.fresh_ready

/-- The part of the interval that a decision keeps is not empty (R285). -/
theorem Coder.Ready.advance_le {c : Coder} (h : c.Ready) (r : Nat) (y : Bool) :
    (c.advance r y).low.toNat ≤ (c.advance r y).high.toNat := by
  obtain ⟨-, hle, -, -⟩ := c.narrow_spec r y h.lt
  exact hle

/-- The coder after at most `n` shifts of its bounds, each where the top bytes agree (R286). -/
def Coder.renorm : Nat → Coder → Coder
  | 0, c => c
  | n + 1, c => if c.topAgree then Coder.renorm n c.shift else c

/-- The bytes sent out by those shifts. -/
def Coder.outBytes : Nat → Coder → List Byte
  | 0, _ => []
  | n + 1, c => if c.topAgree then c.high.extractLsb' 24 8 :: Coder.outBytes n c.shift else []

theorem Coder.renorm_succ {c : Coder} (h : c.topAgree = true) (n : Nat) :
    c.renorm (n + 1) = c.shift.renorm n := if_pos h

theorem Coder.renorm_of_top {c : Coder} (h : c.topAgree = false) (n : Nat) : c.renorm n = c := by
  cases n with
  | zero => rfl
  | succ n => exact if_neg (by rw [h]; decide)

theorem Coder.outBytes_succ {c : Coder} (h : c.topAgree = true) (n : Nat) :
    c.outBytes (n + 1) = c.high.extractLsb' 24 8 :: c.shift.outBytes n := if_pos h

theorem Coder.outBytes_of_top {c : Coder} (h : c.topAgree = false) (n : Nat) : c.outBytes n = [] := by
  cases n with
  | zero => rfl
  | succ n => exact if_neg (by rw [h]; decide)

/-- After `k` shifts `4 - k` more are enough for the top bytes to differ (R286). -/
theorem Coder.renorm_ready (n k : Nat) {c : Coder} (hn : n + k = 4) (hk : c.shifted k)
    (hle : c.low.toNat ≤ c.high.toNat) : (c.renorm n).Ready := by
  induction n generalizing k c with
  | zero =>
    obtain rfl : k = 4 := by omega
    exact ⟨hle, Coder.shifted_four hk⟩
  | succ n ih =>
    cases h : c.topAgree with
    | false => rw [Coder.renorm_of_top h]; exact ⟨hle, h⟩
    | true =>
      rw [Coder.renorm_succ h]
      exact ih (k + 1) (by omega) (Coder.shifted_succ (by omega) hk) (c.shift_le hle h)

theorem Coder.Ready.advance_renorm {c : Coder} (h : c.Ready) (r : Nat) (y : Bool) :
    ((c.advance r y).renorm 4).Ready :=
  Coder.renorm_ready 4 0 rfl (Coder.shifted_zero _) (h.advance_le r y)

/-! ### The encoder -/

/-- A renormalisation that goes on has sent out its bytes; it stops only at a `CODE` with a capacity. -/
theorem renormEnc_cases (n : Nat) (s : State) :
    renormEnc n s = .go { s with ac := s.ac.renorm n, code := s.code.appendList (s.ac.outBytes n) } ∨
      s.cap .code ≠ none ∧ ∃ u, renormEnc n s = .halt u := by
  induction n generalizing s with
  | zero => exact .inl rfl
  | succ n ih =>
    cases h : s.ac.topAgree with
    | false =>
      rw [Coder.renorm_of_top h, Coder.outBytes_of_top h, renormEnc, if_neg (by rw [h]; decide)]
      exact .inl rfl
    | true =>
      rw [Coder.renorm_succ h, Coder.outBytes_succ h, renormEnc, if_pos h]
      rcases append_cases .code (s.ac.high.extractLsb' 24 8) s with ⟨-, happ⟩ | ⟨hfull, happ⟩
      · rw [happ]
        exact ih _
      · rw [happ]
        refine .inr ⟨fun hcap => ?_, _, rfl⟩
        rw [full_of_unbounded hcap] at hfull
        exact absurd hfull (by decide)

/-- The state after the decision `y` where `CODE` has room for its bytes (R286). -/
def State.encoded (s : State) (y : Bool) : State :=
  { s with
    ac := (s.ac.advance s.region y).renorm 4
    code := s.code.appendList ((s.ac.advance s.region y).outBytes 4) }

/-- Everything `ACENCB` can do (R286, R362). -/
theorem encBody_cases (y : Bool) (s : State) :
    encBody y s = .go (s.encoded y) ∨ s.cap .code ≠ none ∧ ∃ u, encBody y s = .halt u :=
  renormEnc_cases 4 { s with ac := s.ac.advance s.region y }

theorem encBody_unbounded {s : State} (h : s.cap .code = none) (y : Bool) :
    encBody y s = .go (s.encoded y) := by
  rcases encBody_cases y s with hgo | ⟨hcap, -⟩
  · exact hgo
  · exact absurd h hcap

theorem State.encoded_ready {s : State} (h : s.ac.Ready) (y : Bool) : (s.encoded y).ac.Ready :=
  h.advance_renorm s.region y

/-- A fifth turn of the rule's loop does nothing (R286). -/
theorem renormEnc_succ (n k : Nat) {s : State} (hn : n + k = 4) (hk : s.ac.shifted k) :
    renormEnc (n + 1) s = renormEnc n s := by
  induction n generalizing k s with
  | zero =>
    obtain rfl : k = 4 := by omega
    exact if_neg (by rw [Coder.shifted_four hk]; decide)
  | succ n ih =>
    rw [renormEnc, renormEnc]
    refine ite_congr rfl (fun _ => ?_) fun _ => rfl
    rcases append_cases .code (s.ac.high.extractLsb' 24 8) s with ⟨-, happ⟩ | ⟨-, happ⟩
    · rw [happ]
      exact ih (k + 1) (by omega) (Coder.shifted_succ (by omega) hk)
    · rw [happ]
      rfl

theorem reference_acencb_eq (y : Bool) {s : State} (h : s.ac.low.toNat ≤ s.ac.high.toNat) :
    Reference.acencb y s = encBody y s := by
  rw [Reference.acencb, Reference.renormEnc_eq, Reference.decided_eq y s h]
  exact renormEnc_succ 4 0 rfl (Coder.shifted_zero _)

/-- Settles O37: split and update are the machine's, and four turns of the loop are as many as it takes. -/
theorem acencbCodesOneDecision : Obligations.AcencbCodesOneDecision := by
  intro y s hmode hle
  rw [exec_acencb y hmode, accepted_eq, reference_acencb_eq y (s := accept s) hle]

/-- Decision by decision the interval stays ready, until a full `CODE` stops the command. -/
theorem reference_encAll_eq (ys : List Bool) {s : State} (h : s.ac.Ready) :
    Reference.encAll ys s = encBits ys s := by
  induction ys generalizing s with
  | nil => rfl
  | cons y ys ih =>
    rw [Reference.encAll, encBits, reference_acencb_eq y h.le]
    rcases encBody_cases y s with hgo | ⟨-, u, hhalt⟩
    · rw [hgo]
      exact ih (State.encoded_ready h y)
    · rw [hhalt]
      rfl

/-- Settles O40: the decisions of `PLAIN` from a fresh interval, then the flush. -/
theorem acencCodesTheSymbolSequence : Obligations.AcencCodesTheSymbolSequence := by
  intro s
  have hbytes : Reference.byteDecisions = fun v => false :: byteBits v := funext Reference.byteDecisions_eq
  have hflush : Reference.acflush = flushBody := funext Reference.acflush_eq
  rw [exec_acenc, accepted_eq, Reference.acenc, hbytes, hflush, reference_acinit_eq,
    reference_encAll_eq _ (acinitBody_ready .encode (accept s))]
  rfl

/-! ### The decoder -/

theorem Coder.Ready.decoded {c : Coder} (h : c.Ready) (code : Buffer) (r : Nat) : (c.decoded code r).Ready := by
  obtain ⟨hle, htop⟩ := Coder.renormDec_spec code 4 0 (c.advance r (c.choice r)) rfl (Coder.shifted_zero _)
    (h.advance_le r _)
  exact ⟨hle, htop⟩

/-- A fifth turn of the rule's loop does nothing (R287). -/
theorem Coder.renormDec_succ (code : Buffer) (n k : Nat) {c : Coder} (hn : n + k = 4) (hk : c.shifted k) :
    Coder.renormDec code (n + 1) c = Coder.renormDec code n c := by
  induction n generalizing k c with
  | zero =>
    obtain rfl : k = 4 := by omega
    exact if_neg (by rw [Coder.shifted_four hk]; decide)
  | succ n ih =>
    rw [Coder.renormDec, Coder.renormDec]
    exact ite_congr rfl (fun _ => ih (k + 1) (by omega) (Coder.shifted_succ (by omega) hk)) fun _ => rfl

theorem reference_renormDec_eq (code : Buffer) (n : Nat) (c : Coder) :
    Reference.renormDec code n c = Coder.renormDec code n c := by
  induction n generalizing c with
  | zero => rfl
  | succ n ih =>
    rw [Reference.renormDec, Coder.renormDec, Coder.goesOn_eq, Reference.nextByte_eq, ih]
    rfl

theorem reference_acdecb_eq {s : State} (h : s.ac.low.toNat ≤ s.ac.high.toNat) :
    Reference.acdecb s = (decBody s).1 := by
  simp only [Reference.acdecb, Reference.mid_eq _ _ h, Reference.split_eq _ _ _ h, Reference.update_eq,
    reference_renormDec_eq, Coder.renormDec_succ s.code 4 0 rfl (Coder.shifted_zero _)]
  rfl

/-- Settles O38: the decision compares with the exact split, and four turns of the loop are enough. -/
theorem acdecbDecodesOneDecision : Obligations.AcdecbDecodesOneDecision := by
  intro s hmode hle
  rw [exec_acdecb hmode, accepted_eq, reference_acdecb_eq (s := accept s) hle]

end Sys2Proof.Machine

/-! ## What the coder commands leave unchanged (R281, R286 to R290) -/

namespace Sys2Proof.Machine

/-- A buffer with more bytes at its end, if any; the bytes that were there are kept (00_scope.md R10). -/
structure Buffer.Begins (b b' : Buffer) : Prop where
  len : b.len ≤ b'.len
  read : ∀ a < b.len, b'.read a = b.read a

theorem Buffer.Begins.refl (b : Buffer) : b.Begins b := ⟨Nat.le_refl _, fun _ _ => rfl⟩

theorem Buffer.Begins.trans {b b' b'' : Buffer} (h : b.Begins b') (h' : b'.Begins b'') : b.Begins b'' where
  len := h.len.trans h'.len
  read a ha := (h'.read a (ha.trans_le h.len)).trans (h.read a ha)

theorem Buffer.begins_appendList (b : Buffer) (vs : List Byte) : b.Begins (b.appendList vs) where
  len := by rw [Buffer.appendList_len]; exact Nat.le_add_right _ _
  read a ha := by rw [Buffer.read_appendList, if_pos ha]

theorem Buffer.begins_append (b : Buffer) (v : Byte) : b.Begins (b.append v) := b.begins_appendList [v]

/-- At most `n` bytes more, all at the end. -/
def Buffer.GrowsBy (n : Nat) (b b' : Buffer) : Prop := b.Begins b' ∧ b'.len ≤ b.len + n

theorem Buffer.GrowsBy.refl (n : Nat) (b : Buffer) : b.GrowsBy n b := ⟨.refl b, Nat.le_add_right _ _⟩

theorem Buffer.GrowsBy.trans {m n : Nat} {b b' b'' : Buffer} (h : b.GrowsBy m b') (h' : b'.GrowsBy n b'') :
    b.GrowsBy (m + n) b'' := by
  obtain ⟨hbegins, hlen⟩ := h
  obtain ⟨hbegins', hlen'⟩ := h'
  exact ⟨hbegins.trans hbegins', by omega⟩

/-- An append that stops leaves the buffer alone (60_exceptions.md R362). -/
theorem append_grows (b : BufId) (v : Byte) (s : State) :
    (s.buf b).GrowsBy 1 ((append b v s).state.buf b) := by
  rcases append_cases b v s with ⟨-, happ⟩ | ⟨-, happ⟩
  · rw [happ, Flow.state_go, setBuf_buf, if_pos rfl]
    exact ⟨Buffer.begins_append _ _, Nat.le_refl _⟩
  · rw [happ, Flow.state_halt, raise_buf]
    exact .refl 1 _

/-- What a first part leaves in a buffer and its rest adds to it. -/
theorem Flow.bind_grows {m n : Nat} {b : Buffer} (i : BufId) {f : Flow} {k : State → Flow}
    (hf : b.GrowsBy m (f.state.buf i)) (hk : ∀ t : State, (t.buf i).GrowsBy n ((k t).state.buf i)) :
    b.GrowsBy (m + n) ((f.bind k).state.buf i) := by
  cases f with
  | go t => exact hf.trans (hk t)
  | halt t => exact hf.trans (.refl n _)

theorem appendAll_grows (b : BufId) (vs : List Byte) (s : State) :
    (s.buf b).GrowsBy vs.length ((appendAll b vs s).state.buf b) := by
  induction vs generalizing s with
  | nil => exact .refl 0 _
  | cons v vs ih =>
    rw [List.length_cons, Nat.add_comm]
    exact Flow.bind_grows b (append_grows b v s) ih

theorem renormEnc_grows (n : Nat) (s : State) : s.code.GrowsBy n (renormEnc n s).state.code := by
  induction n generalizing s with
  | zero => exact .refl 0 _
  | succ n ih =>
    rw [renormEnc]
    split
    · rw [Nat.add_comm]
      exact Flow.bind_grows .code (append_grows .code _ s) fun t => ih { t with ac := t.ac.shift }
    · exact .refl _ _

theorem flushBody_grows (s : State) : s.code.GrowsBy 4 (flushBody s).state.code :=
  Flow.bind_grows (n := 0) .code (appendAll_grows .code (wordBytes s.ac.low) s) fun _ => .refl 0 _

/-- A command with a precondition adds to `CODE` what its body adds; `SequenceError` adds nothing. -/
theorem guarded_grows {i : Instr} {pre : State → Bool} {body : State → State} {s t : State} {n : Nat}
    (he : guarded i pre body s = .next t) (hbody : ∀ u : State, u.code.GrowsBy n (body u).code) :
    s.code.GrowsBy n t.code := by
  rcases guarded_cases he with ⟨-, rfl⟩ | ⟨-, rfl⟩
  · exact hbody (accept s)
  · exact .refl n s.code

theorem writes_acencb (y : Bool) : writes (.acencb y) = Part.errors ++ [.ac, .code] := rfl

theorem exec_acencb_unchanged {y : Bool} {s t : State} (he : exec (.acencb y) s = .next t) :
    unchangedBut (writes (.acencb y)) s t := by
  rw [exec_acencb_guarded] at he
  rw [writes_acencb]
  exact guarded_unchanged he (encBody_unchanged y) (by decide)

theorem exec_acencb_grows {y : Bool} {s t : State} (he : exec (.acencb y) s = .next t) :
    s.code.GrowsBy 4 t.code := by
  rw [exec_acencb_guarded] at he
  exact guarded_grows he fun u => renormEnc_grows 4 { u with ac := u.ac.advance u.region y }

theorem exec_acflush_unchanged {s t : State} (he : exec .acflush s = .next t) :
    unchangedBut (writes .acflush) s t := by
  rw [exec_acflush_guarded] at he
  exact guarded_unchanged he flushBody_unchanged (by decide)

theorem exec_acflush_grows {s t : State} (he : exec .acflush s = .next t) : s.code.GrowsBy 4 t.code := by
  rw [exec_acflush_guarded] at he
  exact guarded_grows he flushBody_grows

/-- The parts that the loop of `ACDEC` writes (R289). -/
theorem acdecLoop_unchanged {n : Nat} {s t : State} (he : acdecLoop n s = .next t) :
    unchangedBut (Part.errors ++ [.ac, .plain, .res, .acMode]) s t :=
  acdecLoop_keeps (P := unchangedBut (Part.errors ++ [.ac, .plain, .res, .acMode]) s) n s t
    (unchangedBut_refl _ s) he
    (fun _ h => unchangedBut_then h (by decide) (decBody_unchanged _))
    (fun _ _ _ h => unchangedBut_then h (by decide) (raise_unchanged _ _ _))
    (fun _ h => unchangedBut_then h (by decide) (acMode_unchanged _ _))
    (fun _ _ h => unchangedBut_then h (by decide) (setBuf_unchanged_plain _ _))

theorem exec_acenc_unchanged {s t : State} (he : exec .acenc s = .next t) :
    unchangedBut (writes .acenc) s t :=
  always_unchanged (body := fun s => (acencBody s).state) he acencBody_unchanged (by decide)

theorem exec_acdec_unchanged {s t : State} (he : exec .acdec s = .next t) :
    unchangedBut (writes .acdec) s t := by
  have hbody := unchangedBut_trans
    (unchangedBut_mono (acinitBody_unchanged_decode (accept s)) (by decide)) (acdecLoop_unchanged he)
  exact unchangedBut_of_accept hbody (by decide)

/-- Settles O51: each command's body writes what its rule names; a decision and the flush append, at most four
times. -/
theorem coderFrames : Obligations.CoderFrames := by
  intro s t
  refine ⟨fun dir he => ?acinit, fun y he => ?acencb, fun he => ?acdecb, fun he => ?acflush,
    exec_acenc_unchanged, exec_acdec_unchanged⟩
  case acinit =>
    cases dir with
    | encode => exact always_unchanged (body := acinitBody .encode) he acinitBody_unchanged_encode (by decide)
    | decode => exact always_unchanged (body := acinitBody .decode) he acinitBody_unchanged_decode (by decide)
  case acencb =>
    obtain ⟨hbegins, hlen⟩ := exec_acencb_grows he
    exact ⟨exec_acencb_unchanged he, hbegins.len, hlen, hbegins.read⟩
  case acdecb =>
    rw [exec_acdecb_guarded] at he
    exact guarded_unchanged he decBody_unchanged (by decide)
  case acflush =>
    obtain ⟨hbegins, hlen⟩ := exec_acflush_grows he
    exact ⟨exec_acflush_unchanged he, hbegins.len, hlen, hbegins.read⟩

end Sys2Proof.Machine

/-! ## The decoder beside the encoder (R286, R287)

The decoder does to the interval and the model what the encoder does; it has two registers more, `XVAL` and
`CPOS`, which the encoder never looks at. -/

namespace Sys2Proof.Machine

/-- The coder with other values in the decoder's own registers. -/
def Coder.aside (c : Coder) (x : BitVec 32) (p : BitVec 28) : Coder := { c with xval := x, cpos := p }

theorem Coder.renorm_aside (n : Nat) (c : Coder) (x : BitVec 32) (p : BitVec 28) :
    (c.aside x p).renorm n = (c.renorm n).aside x p := by
  induction n generalizing c with
  | zero => rfl
  | succ n ih =>
    cases h : c.topAgree with
    | false => rw [Coder.renorm_of_top h, Coder.renorm_of_top (c := c.aside x p) h]
    | true => rw [Coder.renorm_succ h, Coder.renorm_succ (c := c.aside x p) h]; exact ih c.shift

theorem Coder.outBytes_aside (n : Nat) (c : Coder) (x : BitVec 32) (p : BitVec 28) :
    (c.aside x p).outBytes n = c.outBytes n := by
  induction n generalizing c with
  | zero => rfl
  | succ n ih =>
    cases h : c.topAgree with
    | false => rw [Coder.outBytes_of_top h, Coder.outBytes_of_top (c := c.aside x p) h]
    | true =>
      rw [Coder.outBytes_succ h, Coder.outBytes_succ (c := c.aside x p) h]
      exact congrArg _ (ih c.shift)

/-- The decoder's renormalisation is the encoder's, but for the decoder's own registers (R287). -/
theorem Coder.renormDec_eq (code : Buffer) (n : Nat) (c : Coder) :
    ∃ x p, Coder.renormDec code n c = (c.renorm n).aside x p := by
  induction n generalizing c with
  | zero => exact ⟨c.xval, c.cpos, rfl⟩
  | succ n ih =>
    rw [Coder.renormDec]
    cases h : c.topAgree with
    | false => exact ⟨c.xval, c.cpos, by rw [Coder.renorm_of_top h]; rfl⟩
    | true =>
      obtain ⟨x, p, hrest⟩ := ih (c.shift.pull code)
      refine ⟨x, p, ?_⟩
      rw [if_pos rfl, hrest, Coder.renorm_succ h]
      exact congrArg (·.aside x p) (Coder.renorm_aside n c.shift _ _)

/-- A decoded decision is coded alike, but for the decoder's own registers (R287). -/
theorem Coder.decoded_eq (code : Buffer) (r : Nat) (c : Coder) :
    ∃ x p, c.decoded code r = ((c.advance r (c.choice r)).renorm 4).aside x p :=
  Coder.renormDec_eq code 4 _

end Sys2Proof.Machine

/-! ## Every step keeps the coder's invariants (R292) -/

namespace Sys2Proof.Machine

/-! ### The model: context and counts (10_state.md R44, R45) -/

/-- What `State.CoderOk` asks of the context and the counts. -/
structure Coder.ModelOk (c : Coder) : Prop where
  ctx : 1 ≤ c.ctx.toNat ∧ c.ctx.toNat ≤ 511
  counts : ∀ a, (Memory.read c.cnt a).toNat ≤ 65534
  cntWf : Memory.wf (32 * 512 * 2) c.cnt = true

theorem Coder.modelOk_congr {c c' : Coder} (hctx : c'.ctx = c.ctx) (hcnt : c'.cnt = c.cnt) (h : c.ModelOk) :
    c'.ModelOk :=
  ⟨by rw [hctx]; exact h.ctx, by rw [hcnt]; exact h.counts, by rw [hcnt]; exact h.cntWf⟩

theorem Coder.reset_modelOk : Coder.reset.ModelOk := ⟨by decide, fun _ => Nat.zero_le _, rfl⟩

theorem acinitBody_modelOk (dir : Dir) (s : State) : (acinitBody dir s).ac.ModelOk :=
  match dir with
  | .encode => Coder.modelOk_congr (c := Coder.reset) rfl rfl Coder.reset_modelOk
  | .decode => Coder.modelOk_congr (c := Coder.reset) rfl rfl Coder.reset_modelOk

theorem Coder.ModelOk.advance {c : Coder} (h : c.ModelOk) {r : Nat} (hr : r < 32) (y : Bool) :
    (c.advance r y).ModelOk := by
  have hnarrow : (c.narrow r y).ModelOk := Coder.modelOk_congr (c.narrow_ctx r y) (c.narrow_cnt r y) h
  exact ⟨Coder.update_ctx _ r y hnarrow.ctx, Coder.countUp_le _ r y hnarrow.counts,
    Coder.countUp_wf y hr ⟨hnarrow.cntWf, hnarrow.ctx.2⟩⟩

theorem Coder.ModelOk.renorm {c : Coder} (h : c.ModelOk) (n : Nat) : (c.renorm n).ModelOk := by
  induction n generalizing c with
  | zero => exact h
  | succ n ih =>
    cases ha : c.topAgree with
    | false => rw [Coder.renorm_of_top ha]; exact h
    | true => rw [Coder.renorm_succ ha]; exact ih (c := c.shift) (Coder.modelOk_congr (c := c) rfl rfl h)

theorem Coder.ModelOk.decoded {c : Coder} (h : c.ModelOk) {r : Nat} (hr : r < 32) (code : Buffer) :
    (c.decoded code r).ModelOk := by
  obtain ⟨x, p, hdec⟩ := Coder.decoded_eq code r c
  rw [hdec]
  exact Coder.modelOk_congr (c := (c.advance r (c.choice r)).renorm 4) rfl rfl
    ((h.advance hr (c.choice r)).renorm 4)

/-! ### `XVAL` (R287) -/

/-- `XVAL` lies in the interval. -/
def Coder.XvalInside (c : Coder) : Prop := c.low.toNat ≤ c.xval.toNat ∧ c.xval.toNat ≤ c.high.toNat

theorem Coder.XvalInside.decoded {c : Coder} (h : c.XvalInside) (hr : c.Ready) (code : Buffer) (r : Nat) :
    (c.decoded code r).XvalInside := by
  refine Coder.renormDec_xval code 4 (c.advance r (c.choice r)) ?_
  have hinside := c.choice_xval r hr.lt h
  rw [← Coder.narrow_xval c r (c.choice r)] at hinside
  exact hinside

theorem acinitBody_xvalInside (s : State) : (acinitBody .decode s).ac.XvalInside := by
  have hx := (acinitBody .decode s).ac.xval.isLt
  have hhigh : (acinitBody .decode s).ac.high.toNat = 2 ^ 32 - 1 := (by decide : (0xFFFFFFFF#32).toNat = _)
  exact ⟨Nat.zero_le _, by omega⟩

/-! ### The invariant of a state -/

/-- The clauses of R292 for the interval, the model and, while decoding, `XVAL`. -/
theorem coderOk_iff (s : State) : s.CoderOk ↔
    s.ac.Ready ∧ s.ac.ModelOk ∧ (s.acMode = .decoding → s.ac.XvalInside) ∧
      1 ≤ s.cfgNreg.toNat ∧ s.cfgNreg.toNat ≤ 32 where
  mp h := ⟨⟨h.interval, Coder.topAgree_eq_false h.topBytes⟩, ⟨h.ctx, h.counts, h.cntWf⟩, h.xval, h.nreg⟩
  mpr := by
    rintro ⟨hready, hmodel, hxval, hnreg⟩
    exact ⟨hready.le, beq_eq_false_iff_ne.mp hready.top, hxval, hmodel.ctx, hmodel.counts, hnreg, hmodel.cntWf⟩

theorem State.CoderOk.ready {s : State} (h : s.CoderOk) : s.ac.Ready := ((coderOk_iff s).mp h).1

theorem State.CoderOk.model {s : State} (h : s.CoderOk) : s.ac.ModelOk := ((coderOk_iff s).mp h).2.1

theorem flushBody_unbounded {s : State} (h : s.cap .code = none) :
    flushBody s = .go { s with code := s.code.appendList (wordBytes s.ac.low), acMode := .idle } :=
  flushBody_of_hasRoom fun _ hc => nomatch h.symm.trans hc

theorem acinitBody_coderOk (dir : Dir) {s : State} (h : s.CoderOk) : (acinitBody dir s).CoderOk := by
  refine (coderOk_iff _).mpr ⟨acinitBody_ready dir s, acinitBody_modelOk dir s, fun hmode => ?_, ?_⟩
  · cases dir with
    | encode => cases hmode
    | decode => exact acinitBody_xvalInside s
  · cases dir with
    | encode => exact h.nreg
    | decode => exact h.nreg

theorem State.CoderOk.encoded {s : State} (h : s.CoderOk) (hmode : s.acMode = .encoding) (y : Bool) :
    (s.encoded y).CoderOk := by
  refine (coderOk_iff _).mpr ⟨State.encoded_ready h.ready y,
    (h.model.advance (State.region_lt h.nreg) y).renorm 4, fun hdec => ?_, h.nreg⟩
  exact absurd (hmode.symm.trans hdec) (by decide)

theorem State.CoderOk.decBody {s : State} (h : s.CoderOk) (hmode : s.acMode = .decoding) :
    (decBody s).1.CoderOk :=
  (coderOk_iff _).mpr ⟨h.ready.decoded s.code s.region, h.model.decoded (State.region_lt h.nreg) s.code,
    fun _ => Coder.XvalInside.decoded (h.xval hmode) h.ready s.code s.region, h.nreg⟩

/-- Out of decoding mode nothing is asked of `XVAL`. -/
theorem State.CoderOk.idle {s : State} (h : s.CoderOk) : State.CoderOk { s with acMode := .idle } :=
  { h with xval := fun hmode => by cases hmode }

/-- The invariant of the coder with `CODE` unbounded. -/
def State.OpenCoderOk (s : State) : Prop := s.cfg.codeCap = none ∧ s.CoderOk

theorem openCoderOk_looksAt : DependsOn [.cfg, .cfgNreg, .acMode, .ac] State.OpenCoderOk := by
  intro s t hsame hok
  have hcfg : t.cfg = s.cfg := hsame .cfg (by decide)
  have hnreg : t.cfgNreg = s.cfgNreg := hsame .cfgNreg (by decide)
  have hmode : t.acMode = s.acMode := hsame .acMode (by decide)
  have hac : t.ac = s.ac := hsame .ac (by decide)
  rw [State.OpenCoderOk, coderOk_iff] at hok ⊢
  rw [hcfg, hnreg, hmode, hac]
  exact hok

namespace State.OpenCoderOk

theorem acinitBody {s : State} (h : s.OpenCoderOk) (dir : Dir) : (acinitBody dir s).OpenCoderOk :=
  match dir with
  | .encode => ⟨h.1, acinitBody_coderOk .encode h.2⟩
  | .decode => ⟨h.1, acinitBody_coderOk .decode h.2⟩

theorem encBody {s : State} (h : s.OpenCoderOk) (hmode : s.acMode = .encoding) (y : Bool) :
    (encBody y s).state.OpenCoderOk := by
  rw [encBody_unbounded h.1]
  exact ⟨h.1, h.2.encoded hmode y⟩

theorem flushBody {s : State} (h : s.OpenCoderOk) : (flushBody s).state.OpenCoderOk := by
  rw [flushBody_unbounded h.1]
  exact ⟨h.1, { h.2 with xval := fun hmode => by cases hmode }⟩

theorem regWrite {s : State} (h : s.OpenCoderOk) (n : Nat) (v : Word) : (s.regWrite n v).OpenCoderOk := by
  rcases regWrite_cases n v s with he | he | he
  · rw [he]
    exact ⟨h.1, { h.2 with nreg := clampNreg_legal v }⟩
  · rw [he]
    exact ⟨h.1, { h.2 with }⟩
  · exact openCoderOk_looksAt.keep he (by decide) h

theorem bufLoad {s : State} (h : s.OpenCoderOk) {b : BufId} (bytes : List Byte) (hm : b ≠ .mdbuf)
    (ho : b ≠ .obuf) : (s.bufLoad b bytes).OpenCoderOk := by
  rcases bufLoad_cases bytes s hm ho with he | he
  · rw [he]
    exact ⟨h.1, { h.2 with }⟩
  · exact openCoderOk_looksAt.keep he (by decide) h

/-- Only the coder's own actions, a reset and a write of `CFG_NREG` touch what is looked at. -/
theorem keptByStep : KeptByStep State.OpenCoderOk where
  raise c n s := openCoderOk_looksAt.keep (raise_unchanged c n s) (by decide)
  sinit s := openCoderOk_looksAt.keep (sinitBody_unchanged s) (by decide)
  hdr s := openCoderOk_looksAt.keep (hdrBody_unchanged s) (by decide)
  side s _ _ := openCoderOk_looksAt.keep (sideBody_unchanged s) (by decide)
  resv s _ := openCoderOk_looksAt.keep (resvBody_unchanged s) (by decide)
  scf gr ch s _ := openCoderOk_looksAt.keep (scfBody_unchanged gr ch s) (by decide)
  adv s := openCoderOk_looksAt.keep (advBody_unchanged s) (by decide)
  pair gr ch tbl s _ := openCoderOk_looksAt.keep (pairBody_unchanged gr ch tbl s) (by decide)
  quad gr ch sel s _ := openCoderOk_looksAt.keep (quadBody_unchanged gr ch sel s) (by decide)
  specStart gr ch s := openCoderOk_looksAt.keep (specStart_unchanged gr ch s) (by decide)
  specEnd gr ch stop s _ := openCoderOk_looksAt.keep (specEnd_unchanged gr ch stop s) (by decide)
  acinit dir _ h := h.acinitBody dir
  enc y _ hmode h := h.encBody hmode y
  dec _ hmode h := ⟨h.1, h.2.decBody hmode⟩
  flush _ _ h := h.flushBody
  idle _ h := ⟨h.1, h.2.idle⟩
  appendPlain _ s := openCoderOk_looksAt.keep (setBuf_unchanged_plain s _) (by decide)
  clearPlain s := openCoderOk_looksAt.keep (setBuf_unchanged_plain s _) (by decide)
  appendObuf _ s := openCoderOk_looksAt.keep (setBuf_unchanged_obuf s _) (by decide)
  countFrame s := openCoderOk_looksAt.keep (frames_unchanged s _) (by decide)
  zero s := openCoderOk_looksAt.keep (zeroGranules_unchanged s) (by decide)
  skipByte s _ _ := openCoderOk_looksAt.keep (skipByte_unchanged s) (by decide)
  skipFrame s _ := openCoderOk_looksAt.keep (skipFrame_unchanged s) (by decide)
  done s := openCoderOk_looksAt.keep (done_unchanged s) (by decide)
  accept s := openCoderOk_looksAt.keep (accept_unchanged s) (by decide)
  clearErrors s := openCoderOk_looksAt.keep (clearErrors_unchanged s) (by decide)
  srst s h := ⟨h.1, (coderOk_iff (srstBody s)).mpr
    ⟨Coder.reset.fresh_ready, Coder.reset_modelOk, fun hmode => (by cases hmode), h.2.nreg⟩⟩
  rdbits b adv n s := openCoderOk_looksAt.keep (rdbitsBody_unchanged b adv n s) (by cases adv <;> decide)
  regWrite n v _ h := h.regWrite n v
  bufLoad _ bytes _ hm ho h := h.bufLoad bytes hm ho
  readout ws s := openCoderOk_looksAt.keep (readout_unchanged s ws) (by decide)
  host ops s := openCoderOk_looksAt.keep (host_unchanged s ops) (by decide)

end State.OpenCoderOk

end Sys2Proof.Machine

/-! ### `CPOS` while decoding

Commands other than `ACINIT`, `ACDECB` and `ACDEC` leave the coder alone or do not end in decoding mode. Those
three move `CPOS` on by four bytes a decision at most, which does not wrap within the bound on `CODE`. -/

namespace Sys2Proof.Machine

theorem cposOk_looksAt : DependsOn [.acMode, .ac] State.CposOk := by
  intro s t hsame hok
  have hmode : t.acMode = s.acMode := hsame .acMode (by decide)
  have hac : t.ac = s.ac := hsame .ac (by decide)
  rw [State.CposOk, hmode, hac]
  exact hok

theorem cposOk_of_ne {s : State} (h : s.acMode ≠ .decoding) : s.CposOk := fun hmode => absurd hmode h

theorem Coder.shift_pull_cpos (c : Coder) (code : Buffer) (h : c.cpos.toNat + 1 < 2 ^ 28) :
    (c.shift.pull code).cpos.toNat = c.cpos.toNat + 1 := by
  rw [Coder.pull_cpos, BitVec.toNat_add]
  exact Nat.mod_eq_of_lt h

/-- Pulls move `CPOS` on without a wrap while it has room to count (R287). -/
theorem Coder.renormDec_cpos (code : Buffer) (n : Nat) (c : Coder) (h : c.cpos.toNat + n < 2 ^ 28) :
    c.cpos.toNat ≤ (Coder.renormDec code n c).cpos.toNat ∧
      (Coder.renormDec code n c).cpos.toNat ≤ c.cpos.toNat + n := by
  induction n generalizing c with
  | zero => exact ⟨Nat.le_refl _, Nat.le_refl _⟩
  | succ n ih =>
    rw [Coder.renormDec]
    split
    · have hpull := c.shift_pull_cpos code (by omega)
      obtain ⟨hge, hle⟩ := ih (c.shift.pull code) (by omega)
      omega
    · omega

theorem Coder.decoded_cpos (code : Buffer) (r : Nat) (c : Coder) (h : c.cpos.toNat + 4 < 2 ^ 28) :
    c.cpos.toNat ≤ (c.decoded code r).cpos.toNat ∧ (c.decoded code r).cpos.toNat ≤ c.cpos.toNat + 4 := by
  have hcpos : (c.advance r (c.choice r)).cpos = c.cpos := c.narrow_cpos r _
  have hdec := Coder.renormDec_cpos code 4 (c.advance r (c.choice r))
  rw [hcpos] at hdec
  exact hdec h

theorem decBits_cpos (n c : Nat) (s : State) (h : s.ac.cpos.toNat + 4 * n < 2 ^ 28) :
    s.ac.cpos.toNat ≤ (decBits n c s).1.ac.cpos.toNat ∧
      (decBits n c s).1.ac.cpos.toNat ≤ s.ac.cpos.toNat + 4 * n := by
  induction n generalizing c s with
  | zero => exact ⟨Nat.le_refl _, Nat.le_refl _⟩
  | succ n ih =>
    have hfirst : s.ac.cpos.toNat ≤ (decBody s).1.ac.cpos.toNat ∧
        (decBody s).1.ac.cpos.toNat ≤ s.ac.cpos.toNat + 4 :=
      Coder.decoded_cpos s.code s.region s.ac (by omega)
    have hrest := ih (2 * c + (decBody s).2.toNat) (decBody s).1 (by omega)
    rw [decBits]
    omega

end Sys2Proof.Machine

/-! ## The loop of `ACDEC`, symbol by symbol (R289) -/

namespace Sys2Proof.Machine

/-! ### What one turn does -/

/-- Decoding touches the coder and `RES` only (R287). -/
theorem decBits_eq (n c : Nat) (s : State) : ∃ a r, (decBits n c s).1 = { s with ac := a, res := r } := by
  induction n generalizing c s with
  | zero => exact ⟨s.ac, s.res, rfl⟩
  | succ n ih =>
    obtain ⟨a, r, hrest⟩ := ih (2 * c + (decBody s).2.toNat) (decBody s).1
    exact ⟨a, r, hrest⟩

/-- A flag and eight bits decoded, whatever the flag is: the state and the value of the bits. -/
def State.symbol (s : State) : State × Nat := decBits 8 0 (decBody s).1

/-- The state after a symbol whose byte `PLAIN` has room for. -/
def State.afterByte (s : State) : State :=
  s.symbol.1.setBuf .plain ((s.symbol.1.buf .plain).append (BitVec.ofNat 8 s.symbol.2))

theorem State.symbol_eq (s : State) : ∃ a r, s.symbol.1 = { s with ac := a, res := r } := by
  obtain ⟨a, r, hbits⟩ := decBits_eq 8 0 (decBody s).1
  exact ⟨a, r, hbits⟩

@[simp] theorem State.symbol_code (s : State) : s.symbol.1.code = s.code := by
  obtain ⟨a, r, hsym⟩ := s.symbol_eq
  rw [hsym]

@[simp] theorem State.symbol_cap (s : State) (b : BufId) : s.symbol.1.cap b = s.cap b := by
  obtain ⟨a, r, hsym⟩ := s.symbol_eq
  rw [hsym]
  cases b <;> rfl

@[simp] theorem State.afterByte_ac (s : State) : s.afterByte.ac = s.symbol.1.ac := setBuf_ac _ _ _

@[simp] theorem State.afterByte_code (s : State) : s.afterByte.code = s.code :=
  (setBuf_buf s.symbol.1 .plain .code _).trans s.symbol_code

@[simp] theorem State.afterByte_cap (s : State) (b : BufId) : s.afterByte.cap b = s.cap b :=
  (setBuf_cap _ _ _ _).trans (s.symbol_cap b)

@[simp] theorem State.afterByte_lastErr (s : State) : s.afterByte.lastErr = s.lastErr := by
  obtain ⟨a, r, hsym⟩ := s.symbol_eq
  rw [State.afterByte, setBuf_lastErr, hsym]

/-- The four ways a turn of the loop can go: input exhausted, the terminal flag, a byte that `PLAIN` has no
room for, a byte stored. -/
inductive State.DecodeTurn (s : State) : Prop where
  | exhausted (h : s.code.len < s.ac.cpos.toNat)
  | flag (h : s.ac.cpos.toNat ≤ s.code.len) (hflag : (decBody s).2 = true)
  | full (h : s.ac.cpos.toNat ≤ s.code.len) (hflag : (decBody s).2 = false)
      (hfull : s.symbol.1.full .plain = true)
  | stored (h : s.ac.cpos.toNat ≤ s.code.len) (hflag : (decBody s).2 = false)
      (hroom : s.symbol.1.full .plain = false)

theorem State.decodeTurn (s : State) : s.DecodeTurn := by
  rcases Nat.lt_or_ge s.code.len s.ac.cpos.toNat with h | h
  · exact .exhausted h
  · cases hflag : (decBody s).2 with
    | true => exact .flag h hflag
    | false =>
      cases hfull : s.symbol.1.full .plain with
      | true => exact .full h hflag hfull
      | false => exact .stored h hflag hfull

theorem append_of_full {b : BufId} {s : State} (h : s.full b = true) (v : Byte) :
    append b v s = .halt (raise .capacityFault b.id s) := if_pos h

theorem append_of_room {b : BufId} {s : State} (h : s.full b = false) (v : Byte) :
    append b v s = .go (s.setBuf b ((s.buf b).append v)) := if_neg (by rw [h]; decide)

section Turns

variable {s : State} (n : Nat)

theorem acdecLoop_exhausted (h : s.code.len < s.ac.cpos.toNat) :
    acdecLoop (n + 1) s = .next { raise .acInputExhausted s.ac.cpos.toNat s with acMode := .idle } := if_pos h

/-- A turn that reads a flag goes by the decision. -/
theorem acdecLoop_decides (h : s.ac.cpos.toNat ≤ s.code.len) :
    acdecLoop (n + 1) s =
      if (decBody s).2 then .next { (decBody s).1 with acMode := .idle }
      else match append .plain (BitVec.ofNat 8 s.symbol.2) s.symbol.1 with
        | .halt u => .next u
        | .go u => acdecLoop n u := by
  rw [acdecLoop, if_neg (Nat.not_lt.mpr h), State.symbol]
  split
  · rename_i u hdec
    rw [hdec]
    rfl
  · rename_i u hdec
    rw [hdec]
    rfl

theorem acdecLoop_flag (h : s.ac.cpos.toNat ≤ s.code.len) (hflag : (decBody s).2 = true) :
    acdecLoop (n + 1) s = .next { (decBody s).1 with acMode := .idle } := by
  rw [acdecLoop_decides n h, if_pos hflag]

theorem acdecLoop_full (h : s.ac.cpos.toNat ≤ s.code.len) (hflag : (decBody s).2 = false)
    (hfull : s.symbol.1.full .plain = true) :
    acdecLoop (n + 1) s = .next (raise .capacityFault BufId.plain.id s.symbol.1) := by
  rw [acdecLoop_decides n h, hflag, append_of_full hfull]
  rfl

theorem acdecLoop_stored (h : s.ac.cpos.toNat ≤ s.code.len) (hflag : (decBody s).2 = false)
    (hroom : s.symbol.1.full .plain = false) : acdecLoop (n + 1) s = acdecLoop n s.afterByte := by
  rw [acdecLoop_decides n h, hflag, append_of_room hroom]
  rfl

end Turns

/-- With more fuel the loop ends in the same state. -/
theorem acdecLoop_mono {m n : Nat} {s t : State} (hle : m ≤ n) (he : acdecLoop m s = .next t) :
    acdecLoop n s = .next t := by
  induction m generalizing n s with
  | zero => cases he
  | succ m ih =>
    obtain ⟨n, rfl⟩ := Nat.exists_eq_succ_of_ne_zero (Nat.ne_of_gt (Nat.lt_of_lt_of_le m.succ_pos hle))
    cases s.decodeTurn with
    | exhausted h => rw [acdecLoop_exhausted m h] at he; rw [acdecLoop_exhausted n h, he]
    | flag h hflag => rw [acdecLoop_flag m h hflag] at he; rw [acdecLoop_flag n h hflag, he]
    | full h hflag hfull => rw [acdecLoop_full m h hflag hfull] at he; rw [acdecLoop_full n h hflag hfull, he]
    | stored h hflag hroom =>
      rw [acdecLoop_stored m h hflag hroom] at he
      rw [acdecLoop_stored n h hflag hroom]
      exact ih (Nat.le_of_succ_le_succ hle) he

/-! ### `CPOS` through a symbol -/

/-- A symbol begins with `CPOS` at most `CODE_LEN` and requests at most 36 bytes. -/
theorem State.symbol_cpos {s : State} (h : s.ac.cpos.toNat + 36 < 2 ^ 28) :
    s.ac.cpos.toNat ≤ s.symbol.1.ac.cpos.toNat ∧ s.symbol.1.ac.cpos.toNat ≤ s.ac.cpos.toNat + 36 := by
  have hflag : s.ac.cpos.toNat ≤ (decBody s).1.ac.cpos.toNat ∧
      (decBody s).1.ac.cpos.toNat ≤ s.ac.cpos.toNat + 4 :=
    Coder.decoded_cpos s.code s.region s.ac (by omega)
  have hbits := decBits_cpos 8 0 (decBody s).1 (by omega)
  rw [State.symbol]
  omega

/-- `ACDEC` ends idle, or in decoding mode with its four bytes requested (R292). -/
theorem acdecLoop_cposOk {n : Nat} {s t : State} (hlen : s.code.len ≤ 2 ^ 28 - 2 ^ 12)
    (hcpos : 4 ≤ s.ac.cpos.toNat) (he : acdecLoop n s = .next t) : t.CposOk := by
  induction n generalizing s with
  | zero => cases he
  | succ n ih =>
    cases s.decodeTurn with
    | exhausted h =>
      rw [acdecLoop_exhausted n h] at he
      cases he
      exact cposOk_of_ne nofun
    | flag h hflag =>
      rw [acdecLoop_flag n h hflag] at he
      cases he
      exact cposOk_of_ne nofun
    | full h hflag hfull =>
      rw [acdecLoop_full n h hflag hfull] at he
      cases he
      have hsym := s.symbol_cpos (by omega)
      exact fun _ => hcpos.trans hsym.1
    | stored h hflag hroom =>
      rw [acdecLoop_stored n h hflag hroom] at he
      have hsym := s.symbol_cpos (by omega)
      refine ih (s := s.afterByte) ?_ ?_ he
      · rw [State.afterByte_code]
        exact hlen
      · rw [State.afterByte_ac]
        exact hcpos.trans hsym.1

end Sys2Proof.Machine

/-! ## Every command keeps R292's clause on `CPOS` -/

namespace Sys2Proof.Machine

/-- `ACFLUSH` ends idle, or where a full `CODE` stopped it, in encoding mode (R290). -/
theorem flushBody_cposOk {s : State} (hmode : s.acMode = .encoding) : (flushBody s).state.CposOk := by
  have happ := appendAll_unchanged_code (wordBytes s.ac.low) s .acMode (by decide)
  refine Flow.state_bind (P := fun u => u.acMode = .encoding) (happ.trans hmode) (fun u hu => ?_) fun u _ => ?_
  · exact cposOk_of_ne (by rw [hu]; decide)
  · exact cposOk_of_ne nofun

/-- `ACENC` ends idle, or where a full `CODE` stopped it, in encoding mode (R288). -/
theorem acencBody_cposOk (s : State) : (acencBody s).state.CposOk := by
  refine Flow.state_bind (P := fun u => u.acMode = .encoding) ?_ (fun u hu => ?_) fun u => flushBody_cposOk
  · exact encBits_keeps (P := fun u => u.acMode = .encoding) _ (acinitBody .encode s) rfl
      fun y u hu => (encBody_acMode y u).trans hu
  · exact cposOk_of_ne (by rw [hu]; decide)

theorem emitBody_cposOk (s : State) (h : s.CposOk) : (emitBody s).state.CposOk := by
  refine Flow.state_bind (P := State.CposOk) ?_ (fun _ hu => hu)
    fun u => cposOk_looksAt.keep (emitFrame_unchanged u) (by decide)
  exact Flow.state_bind (P := State.CposOk) (cposOk_looksAt.keep (serBody_unchanged s) (by decide) h)
    (fun _ hu => hu) fun u _ => acencBody_cposOk u

theorem frameBody_cposOk (s : State) (h : s.CposOk) : (frameBody s).state.CposOk := by
  unfold frameBody
  split
  · have hhdr := cposOk_looksAt.keep (hdrBody_unchanged s) (by decide) h
    unfold frameAfterHdr
    split
    · exact cposOk_looksAt.keep (skipByte_unchanged _) (by decide) hhdr
    · split
      · exact cposOk_looksAt.keep (skipFrame_unchanged _) (by decide) hhdr
      · have hdec := cposOk_looksAt.keep (frameDecode_unchanged (hdrBody s)) (by decide) hhdr
        exact Flow.state_bind (P := State.CposOk) (emitBody_cposOk _ hdec) (fun _ hu => hu)
          fun u => cposOk_looksAt.keep (advBody_unchanged u) (by decide)
  · exact cposOk_looksAt.keep (done_unchanged s) (by decide) h

theorem runEnd_cposOk (s : State) (h : s.CposOk) : (runEnd s).CposOk := by
  unfold runEnd
  split
  · exact h
  · exact h

theorem runBody_cposOk {s t : State} (h : s.CposOk) (he : runBody s = .next t) : t.CposOk := by
  unfold runBody at he
  split at he
  · cases he
    exact h
  · exact runLoop_keeps (P := State.CposOk) _ s t h he frameBody_cposOk runEnd_cposOk

theorem guarded_cposOk {i : Instr} {pre : State → Bool} {body : State → State} {s t : State}
    (h : s.CposOk) (hbody : pre (accept s) = true → (body (accept s)).CposOk)
    (he : guarded i pre body s = .next t) : t.CposOk := by
  rcases guarded_cases he with ⟨hpre, rfl⟩ | ⟨-, rfl⟩
  · exact hbody hpre
  · exact h

theorem exec_cposOk {i : Instr} {s t : State} (hfits : s.codeFits) (h : s.CposOk) (he : exec i s = .next t) :
    t.CposOk := by
  obtain ⟨hnop, hsrst, hclrerr, hsinit, hrdbits, hhdr, hside, hresv, hscf, hadv⟩ := controlAndParserFrames s t
  obtain ⟨hlen, hcpos⟩ := hfits
  cases i with
  | nop => exact cposOk_looksAt.keep (hnop he) (by decide) h
  | srst => cases he; exact cposOk_of_ne nofun
  | clrerr => exact cposOk_looksAt.keep (hclrerr he) (by decide) h
  | sinit => exact cposOk_looksAt.keep (hsinit he) (by decide) h
  | rdbits b adv n => exact cposOk_looksAt.keep (hrdbits b adv n he) (by rw [writes_rdbits]; cases adv <;> decide) h
  | hdr => exact cposOk_looksAt.keep (hhdr he) (by decide) h
  | side => exact cposOk_looksAt.keep (hside he) (by decide) h
  | resv => exact cposOk_looksAt.keep (hresv he) (by decide) h
  | scf gr ch => exact cposOk_looksAt.keep (hscf gr ch he) (by rw [writes_scf]; decide) h
  | adv => exact cposOk_looksAt.keep (hadv he) (by decide) h
  | hufpair gr ch tbl =>
    obtain ⟨hpair, -, -⟩ := spectrumFrames s t gr ch
    exact cposOk_looksAt.keep (hpair tbl he).1 (by rw [writes_hufpair]; decide) h
  | hufquad gr ch sel =>
    obtain ⟨-, hquad, -⟩ := spectrumFrames s t gr ch
    exact cposOk_looksAt.keep (hquad sel he).1 (by rw [writes_hufquad]; decide) h
  | spec gr ch =>
    obtain ⟨-, -, hspec⟩ := spectrumFrames s t gr ch
    exact cposOk_looksAt.keep (hspec he).1 (by rw [writes_spec]; decide) h
  | acinit dir =>
    cases dir with
    | encode => cases he; exact cposOk_of_ne nofun
    | decode => cases he; exact fun _ => (by decide : 4 ≤ (4#28).toNat)
  | acencb y =>
    rw [exec_acencb_guarded] at he
    refine guarded_cposOk h (fun hpre => cposOk_of_ne ?_) he
    rw [encBody_acMode, eq_of_beq hpre]
    decide
  | acdecb =>
    rw [exec_acdecb_guarded] at he
    refine guarded_cposOk h (fun hpre _ => ?_) he
    have hdec := Coder.decoded_cpos s.code (accept s).region s.ac (by omega)
    exact (h (eq_of_beq hpre)).trans hdec.1
  | acflush =>
    rw [exec_acflush_guarded] at he
    exact guarded_cposOk h (fun hpre => flushBody_cposOk (eq_of_beq hpre)) he
  | acenc => cases he; exact acencBody_cposOk _
  | acdec => exact acdecLoop_cposOk (s := acinitBody .decode (accept s)) hlen (Nat.le_refl 4) he
  | ser =>
    exact guarded_cposOk (i := .ser) (pre := (·.hValid)) (body := fun s => (serBody s).state) h
      (fun _ => cposOk_looksAt.keep (serBody_unchanged _) (by decide) h) he
  | emit =>
    exact guarded_cposOk (i := .emit) (pre := emitPre) (body := fun s => (emitBody s).state) h
      (fun _ => emitBody_cposOk _ h) he
  | frame => cases he; exact frameBody_cposOk _ h
  | run => exact runBody_cposOk (s := sinitBody (accept s)) h he

theorem perform_cposOk {op : HostOp} {s t : State} (hfits : s.codeFits) (h : s.CposOk)
    (he : perform op s = .next t) : t.CposOk := by
  cases op with
  | regWrite n v =>
    change hostWrite n v s = .next t at he
    unfold hostWrite at he
    split at he
    · unfold issue at he
      split at he
      · exact exec_cposOk hfits h he
      · cases he
        exact h
    · cases he
      rcases regWrite_cases n v s with hw | hw | hw
      · rw [hw]
        exact h
      · rw [hw]
        exact h
      · exact cposOk_looksAt.keep hw (by decide) h
  | loadIbuf bytes | loadPlain bytes | loadCode bytes =>
    rw [hostLoad_next he]
    exact h
  | regRead _ | bufRead _ _ _ | sampRead _ _ _ | scfLRead _ _ _ | scfSRead _ _ _ _ | cntRead _ _ _ =>
    cases he
    exact h

theorem step_cposOk {s t : State} (hfits : s.codeFits) (h : s.CposOk) (he : step s = .next t) : t.CposOk := by
  cases hhost : s.host with
  | nil =>
    rw [step_of_idle hhost] at he
    cases he
    exact h
  | cons op rest =>
    rw [step_of_host hhost] at he
    exact perform_cposOk (s := { s with host := rest }) hfits h he

/-- Settles O55: the interval and the model are an invariant of every action, and `CPOS` one of every command. -/
theorem stepKeepsCoderInvariant : Obligations.StepKeepsCoderInvariant :=
  ⟨fun s t hcap hok => State.OpenCoderOk.keptByStep.step s t ⟨hcap, hok⟩, fun _ _ => step_cposOk⟩

end Sys2Proof.Machine

/-! ## `ACDEC` always ends (R289)

A decision that pulls no byte narrows the interval; one that does moves `CPOS` on. Both spend of a budget that
`CODE_LEN` and the width of the interval bound. -/

namespace Sys2Proof.Machine

/-- The bytes that may still be requested, weighted above every width, and the width of the interval. -/
def Coder.budget (len : Nat) (c : Coder) : Nat :=
  (len + 1 - c.cpos.toNat) * 2 ^ 32 + (c.high.toNat - c.low.toNat)

/-- Less than `b` is left, or a byte beyond `CODE` has been requested. -/
def Coder.Spent (len b : Nat) (c : Coder) : Prop := len < c.cpos.toNat ∨ c.budget len < b

theorem Coder.le_budget {len : Nat} {c : Coder} (h : c.cpos.toNat ≤ len) : 2 ^ 32 ≤ c.budget len := by
  have hbytes : 2 ^ 32 ≤ (len + 1 - c.cpos.toNat) * 2 ^ 32 := Nat.le_mul_of_pos_left _ (by omega)
  exact hbytes.trans (Nat.le_add_right _ _)

/-- A byte requested outweighs any width. -/
theorem Coder.budget_lt_of_cpos_lt {len : Nat} {c c' : Coder} (h : c.cpos.toNat ≤ len)
    (hlt : c.cpos.toNat < c'.cpos.toNat) : c'.budget len < c.budget len := by
  have hhigh := c'.high.isLt
  have hbytes : (len + 1 - c'.cpos.toNat + 1) * 2 ^ 32 ≤ (len + 1 - c.cpos.toNat) * 2 ^ 32 :=
    Nat.mul_le_mul_right _ (by omega)
  unfold Coder.budget
  omega

/-- A decision narrows the interval (R285, R289). -/
theorem Coder.Ready.advance_width_lt {c : Coder} (h : c.Ready) (r : Nat) (y : Bool) :
    (c.advance r y).high.toNat - (c.advance r y).low.toNat < c.high.toNat - c.low.toNat := by
  obtain ⟨-, -, -, hlt⟩ := c.narrow_spec r y h.lt
  exact hlt

theorem Coder.decoded_of_top {c : Coder} (code : Buffer) {r : Nat}
    (h : (c.advance r (c.choice r)).topAgree = false) : c.decoded code r = c.advance r (c.choice r) := by
  rw [Coder.decoded, Coder.renormDec, if_neg (by rw [h]; decide)]

/-- Every decision up to the end of `CODE` spends (R289). -/
theorem Coder.Ready.budget_decoded_lt {c : Coder} (h : c.Ready) (code : Buffer) (r : Nat) {len : Nat}
    (hcpos : c.cpos.toNat ≤ len) (hlen : len + 4 < 2 ^ 28) :
    (c.decoded code r).budget len < c.budget len := by
  have hadv : (c.advance r (c.choice r)).cpos = c.cpos := c.narrow_cpos r _
  cases htop : (c.advance r (c.choice r)).topAgree with
  | false =>
    have hnarrow := h.advance_width_lt r (c.choice r)
    rw [Coder.decoded_of_top code htop, Coder.budget, Coder.budget, hadv]
    omega
  | true =>
    have hpull := (c.advance r (c.choice r)).shift_pull_cpos code (by rw [hadv]; omega)
    have hrest := Coder.renormDec_cpos code 3 ((c.advance r (c.choice r)).shift.pull code)
      (by rw [hpull, hadv]; omega)
    rw [hpull, hadv] at hrest
    refine Coder.budget_lt_of_cpos_lt hcpos ?_
    rw [Coder.decoded, Coder.renormDec, if_pos htop]
    exact hrest.1

theorem Coder.Spent.decoded {c : Coder} {len b : Nat} (h : c.Spent len b) (hr : c.Ready) (code : Buffer)
    (r : Nat) (hlen : len + 4 < 2 ^ 28) (hcpos : c.cpos.toNat + 4 < 2 ^ 28) :
    (c.decoded code r).Spent len b := by
  have hmono := Coder.decoded_cpos code r c hcpos
  rcases Nat.lt_or_ge len c.cpos.toNat with hbeyond | hwithin
  · exact .inl (hbeyond.trans_le hmono.1)
  · have hspend := hr.budget_decoded_lt code r hwithin hlen
    rcases h with hbeyond | hleft
    · exact absurd hbeyond (Nat.not_lt.mpr hwithin)
    · exact .inr (hspend.trans hleft)

theorem decBits_ready (n c : Nat) {s : State} (h : s.ac.Ready) : (decBits n c s).1.ac.Ready :=
  decBits_keeps (P := fun u => u.ac.Ready) n c s h fun u hu => hu.decoded u.code u.region

theorem State.symbol_ready {s : State} (h : s.ac.Ready) : s.symbol.1.ac.Ready :=
  decBits_ready 8 0 (s := (decBody s).1) (h.decoded s.code s.region)

theorem decBits_spent {len b : Nat} (n c : Nat) {s : State} (h : s.ac.Spent len b) (hr : s.ac.Ready)
    (hlen : len + 4 < 2 ^ 28) (hcpos : s.ac.cpos.toNat + 4 * n < 2 ^ 28) :
    (decBits n c s).1.ac.Spent len b := by
  induction n generalizing c s with
  | zero => exact h
  | succ n ih =>
    have hmono := Coder.decoded_cpos s.code s.region s.ac (by omega)
    exact ih (2 * c + (decBody s).2.toNat) (s := (decBody s).1)
      (h.decoded hr s.code s.region hlen (by omega)) (hr.decoded s.code s.region)
      (show (s.ac.decoded s.code s.region).cpos.toNat + 4 * n < 2 ^ 28 by omega)

/-- A symbol that begins within `CODE` spends. -/
theorem State.symbol_spent {s : State} (hr : s.ac.Ready) (hcpos : s.ac.cpos.toNat ≤ s.code.len)
    (hlen : s.code.len ≤ 2 ^ 28 - 2 ^ 12) :
    s.symbol.1.ac.Spent s.code.len (s.ac.budget s.code.len) := by
  have hmono := Coder.decoded_cpos s.code s.region s.ac (by omega)
  exact decBits_spent 8 0 (s := (decBody s).1)
    (.inr (hr.budget_decoded_lt s.code s.region hcpos (by omega))) (hr.decoded s.code s.region) (by omega)
    (show (s.ac.decoded s.code s.region).cpos.toNat + 4 * 8 < 2 ^ 28 by omega)

/-- A loop with more fuel than budget ends. -/
theorem acdecLoop_completes {n : Nat} {s : State} (hn : 0 < n) (hr : s.ac.Ready)
    (hlen : s.code.len ≤ 2 ^ 28 - 2 ^ 12) (h : s.ac.Spent s.code.len n) : ∃ t, acdecLoop n s = .next t := by
  induction n generalizing s with
  | zero => exact absurd hn (Nat.lt_irrefl 0)
  | succ n ih =>
    cases s.decodeTurn with
    | exhausted h => exact ⟨_, acdecLoop_exhausted n h⟩
    | flag h hflag => exact ⟨_, acdecLoop_flag n h hflag⟩
    | full h hflag hfull => exact ⟨_, acdecLoop_full n h hflag hfull⟩
    | stored hcpos hflag hroom =>
      have hbudget : s.ac.budget s.code.len ≤ n :=
        Nat.le_of_lt_succ (h.resolve_left (Nat.not_lt.mpr hcpos))
      have hbytes := Coder.le_budget hcpos
      have hspent := State.symbol_spent hr hcpos hlen
      rw [acdecLoop_stored n hcpos hflag hroom]
      refine ih (by omega) ?_ ?_ ?_
      · rw [State.afterByte_ac]
        exact State.symbol_ready hr
      · rw [State.afterByte_code]
        exact hlen
      · rw [State.afterByte_ac, State.afterByte_code]
        exact hspent.imp id fun hlt => hlt.trans_le hbudget

theorem exec_acdec_completes {s : State} (hlen : s.code.len ≤ 2 ^ 28 - 2 ^ 12) :
    ∃ t, exec .acdec s = .next t := by
  have hspent : (acinitBody .decode (accept s)).ac.budget s.code.len < acdecFuel s := by
    change (s.code.len + 1 - 4) * 2 ^ 32 + (2 ^ 32 - 1 - 0) < (s.code.len + 1) * 2 ^ 32
    omega
  rw [exec_acdec]
  exact acdecLoop_completes (Nat.mul_pos (Nat.succ_pos _) (by decide)) (acinitBody_ready .decode (accept s))
    hlen (.inr hspent)

/-! ### The loop of the rule -/

theorem decBody_res (s : State) : (decBody s).1.res = if (decBody s).2 then 1 else 0 := rfl

theorem reference_decodeBits_eq (n c : Nat) {s : State} (h : s.ac.Ready) :
    Reference.decodeBits n c s = ((decBits n c s).2, (decBits n c s).1) := by
  induction n generalizing c s with
  | zero => rfl
  | succ n ih =>
    have hres : (decBody s).1.res.toNat = (decBody s).2.toNat := by
      rw [decBody_res]
      cases (decBody s).2 <;> rfl
    rw [Reference.decodeBits, decBits]
    simp only [reference_acdecb_eq h.le, hres]
    exact ih _ (s := (decBody s).1) (h.decoded s.code s.region)

/-- A turn that reads a flag goes by the decision. -/
theorem reference_acdecTurn_decides {s : State} (hr : s.ac.Ready) (h : s.ac.cpos.toNat ≤ s.code.len) :
    Reference.acdecTurn s =
      if (decBody s).2 then .leave (decBody s).1
      else match append .plain (BitVec.ofNat 8 s.symbol.2) s.symbol.1 with
        | .go u => .again u
        | .halt u => .stop u := by
  have hready : (decBody s).1.ac.Ready := hr.decoded s.code s.region
  rw [Reference.acdecTurn, if_neg (Nat.not_lt.mpr h)]
  simp only [reference_acdecb_eq hr.le, reference_decodeBits_eq 8 0 hready, Reference.append_eq, decBody_res]
  cases (decBody s).2 with
  | true => rfl
  | false => rfl

/-- The loop leaves what the rule's loop and the line after it leave (R289). -/
theorem acdecLoop_gives {n : Nat} {s t : State} (hr : s.ac.Ready) (he : acdecLoop n s = .next t) :
    Reference.loopGives Reference.acdecTurn (fun u => { u with acMode := .idle }) s t := by
  induction n generalizing s with
  | zero => cases he
  | succ n ih =>
    cases s.decodeTurn with
    | exhausted h =>
      rw [acdecLoop_exhausted n h] at he
      cases he
      exact Reference.loopGives_leave (if_pos h)
    | flag h hflag =>
      rw [acdecLoop_flag n h hflag] at he
      cases he
      exact Reference.loopGives_leave (by rw [reference_acdecTurn_decides hr h, if_pos hflag])
    | full h hflag hfull =>
      rw [acdecLoop_full n h hflag hfull] at he
      cases he
      refine Reference.loopGives_stop ?_
      rw [reference_acdecTurn_decides hr h, hflag, append_of_full hfull]
      rfl
    | stored h hflag hroom =>
      rw [acdecLoop_stored n h hflag hroom] at he
      refine Reference.loopGives_again (u := s.afterByte) ?_ (ih ?_ he)
      · rw [reference_acdecTurn_decides hr h, hflag, append_of_room hroom]
        rfl
      · rw [State.afterByte_ac]
        exact State.symbol_ready hr

/-- With `PLAIN` unbounded the loop ends idle, at the terminal flag with nothing raised or beyond `CODE`. -/
theorem acdecLoop_outcome {n : Nat} {s t : State} (hcap : s.cap .plain = none) (hlast : s.lastErr = 0)
    (he : acdecLoop n s = .next t) :
    t.acMode = .idle ∧ (t.lastErr = 0 ∨
      t.lastErr = 11 ∧ t.errInfo = t.ac.cpos.setWidth 32 ∧ s.code.len < t.ac.cpos.toNat) := by
  induction n generalizing s with
  | zero => cases he
  | succ n ih =>
    cases s.decodeTurn with
    | exhausted h =>
      rw [acdecLoop_exhausted n h] at he
      cases he
      exact ⟨rfl, .inr ⟨rfl, BitVec.ofNat_toNat 32 s.ac.cpos, h⟩⟩
    | flag h hflag =>
      rw [acdecLoop_flag n h hflag] at he
      cases he
      exact ⟨rfl, .inl hlast⟩
    | full h hflag hfull =>
      rw [full_of_unbounded ((s.symbol_cap .plain).trans hcap)] at hfull
      cases hfull
    | stored h hflag hroom =>
      rw [acdecLoop_stored n h hflag hroom] at he
      have hrest := ih ((s.afterByte_cap .plain).trans hcap) (s.afterByte_lastErr.trans hlast) he
      rw [State.afterByte_code] at hrest
      exact hrest

/-- Settles O41: the budget bounds the turns, and each turn is the rule's. -/
theorem acdecAlwaysEnds : Obligations.AcdecAlwaysEnds := by
  intro s hlen
  obtain ⟨t, he⟩ := exec_acdec_completes hlen
  refine ⟨t, he, ?_, fun hcap => ?_, exec_acdec_unchanged he⟩
  · rw [accepted_eq, reference_acinit_eq]
    exact acdecLoop_gives (acinitBody_ready .decode (accept s)) he
  · exact acdecLoop_outcome (s := acinitBody .decode (accept s)) hcap rfl he

end Sys2Proof.Machine

/-! ## The round trip (R291)

At every decision the decoder's `XVAL` is the four bytes of the finished `CODE` that begin where the encoder's
`CODE` then ended. By induction from the flush backwards these four bytes lie in the encoder's interval, and so
the decoder takes the part of it that the encoder took. -/

namespace Sys2Proof.Machine

/-! ### Four bytes of `CODE` -/

/-- The four bytes from `p` on as a number, the first the most significant. -/
def Buffer.window (b : Buffer) (p : Nat) : Nat := b.bits (8 * p) 32

/-- A window is its first byte over the three bytes it shares with the next window. -/
theorem Buffer.window_split (b : Buffer) (p : Nat) :
    ∃ m < 2 ^ 24, b.window p = (b.read p).toNat * 2 ^ 24 + m ∧
      b.window (p + 1) = m * 256 + (b.read (p + 4)).toNat := by
  refine ⟨b.bits (8 * (p + 1)) 24, b.bits_lt _ _, ?_, ?_⟩
  · rw [← b.bits_byte p]
    exact b.bits_add (8 * p) 8 24
  · rw [← b.bits_byte (p + 4)]
    exact b.bits_add (8 * (p + 1)) 24 8

theorem Buffer.window_succ (b : Buffer) (p : Nat) :
    b.window (p + 1) = b.window p % 2 ^ 24 * 256 + (b.read (p + 4)).toNat := by
  obtain ⟨m, hm, hhere, hnext⟩ := b.window_split p
  rw [hhere, hnext, Nat.mul_add_mod_self_right, Nat.mod_eq_of_lt hm]

theorem Buffer.window_eq (b : Buffer) (p : Nat) : b.window p =
    (b.read p).toNat * 2 ^ 24 + (b.read (p + 1)).toNat * 2 ^ 16 + (b.read (p + 2)).toNat * 2 ^ 8 +
      (b.read (p + 3)).toNat := by
  have hfirst : b.bits (8 * p) 32 = b.bits (8 * p) 8 * 2 ^ 24 + b.bits (8 * (p + 1)) 24 := b.bits_add _ 8 24
  have hsecond : b.bits (8 * (p + 1)) 24 = b.bits (8 * (p + 1)) 8 * 2 ^ 16 + b.bits (8 * (p + 2)) 16 :=
    b.bits_add _ 8 16
  have hthird : b.bits (8 * (p + 2)) 16 = b.bits (8 * (p + 2)) 8 * 2 ^ 8 + b.bits (8 * (p + 3)) 8 :=
    b.bits_add _ 8 8
  rw [Buffer.window, hfirst, hsecond, hthird]
  simp only [Buffer.bits_byte]
  omega

/-- The four bytes of a word, read back (R290). -/
theorem Buffer.window_wordBytes (b : Buffer) (w : Word) : (b.appendList (wordBytes w)).window b.len = w.toNat := by
  have hw := w.isLt
  have hread : ∀ i, (b.appendList (wordBytes w)).read (b.len + i) = (wordBytes w).getD i 0 := fun i => by
    rw [Buffer.read_appendList, if_neg (by omega), Nat.add_sub_cancel_left]
  rw [Buffer.window_eq, hread 1, hread 2, hread 3, ← Nat.add_zero b.len, hread 0]
  simp only [wordBytes, List.getD_cons_zero, List.getD_cons_succ, BitVec.extractLsb'_toNat,
    Nat.shiftRight_eq_div_pow]
  omega

/-! ### The decoder's window -/

/-- The decoder has requested the bytes up to `p + 4` and holds the last four of them. -/
structure Coder.Holds (code : Buffer) (p : Nat) (c : Coder) : Prop where
  cpos : c.cpos.toNat = p + 4
  xval : c.xval.toNat = code.window p

theorem Coder.Holds.shift_pull {code : Buffer} {p : Nat} {c : Coder} (h : c.Holds code p)
    (hp : p + 5 < 2 ^ 28) : (c.shift.pull code).Holds code (p + 1) where
  cpos := by rw [c.shift_pull_cpos code (by rw [h.cpos]; omega), h.cpos]
  xval := by
    have hpull := c.shift.pull_toNat code
    rw [show c.shift.xval = c.xval from rfl, show c.shift.cpos = c.cpos from rfl, h.cpos, h.xval] at hpull
    rw [hpull, Buffer.window_succ]

/-- The decoder pulls a byte for each that the encoder sent out (R286, R287). -/
theorem Coder.Holds.renormDec {code : Buffer} {p : Nat} {c : Coder} (h : c.Holds code p) (n : Nat)
    (hp : p + n + 4 < 2 ^ 28) : (Coder.renormDec code n c).Holds code (p + (c.outBytes n).length) := by
  induction n generalizing c p with
  | zero => exact h
  | succ n ih =>
    rw [Coder.renormDec]
    cases htop : c.topAgree with
    | false =>
      rw [if_neg Bool.false_ne_true, Coder.outBytes_of_top htop]
      exact h
    | true =>
      have hrest := ih (h.shift_pull (by omega)) (by omega)
      have hout : (c.shift.pull code).outBytes n = c.shift.outBytes n := Coder.outBytes_aside n c.shift _ _
      rw [hout, Nat.add_assoc, Nat.add_comm 1] at hrest
      rw [if_pos rfl, Coder.outBytes_succ htop, List.length_cons]
      exact hrest

theorem Coder.pull_xval {c : Coder} (code : Buffer) {k m : Nat} (hcpos : c.cpos.toNat = k)
    (hxval : c.xval.toNat = m) (hm : m < 2 ^ 24) :
    (c.pull code).xval.toNat = m * 256 + (code.read k).toNat := by
  rw [c.pull_toNat, hcpos, hxval, Nat.mod_eq_of_lt hm]

/-- Four pulls from `CPOS` 0 fill `XVAL` with the first window (R281). -/
theorem Coder.prime_holds (c : Coder) (code : Buffer) : (c.prime code).Holds code 0 where
  cpos := rfl
  xval := by
    have hbyteZero := (code.read 0).isLt
    have hbyteOne := (code.read 1).isLt
    have hbyteTwo := (code.read 2).isLt
    have hone := Coder.pull_xval (c := { c with cpos := 0, xval := 0 }) code (k := 0) (m := 0) rfl rfl (by decide)
    have htwo := Coder.pull_xval code (k := 1) rfl hone (by omega)
    have hthree := Coder.pull_xval code (k := 2) rfl htwo (by omega)
    have hfour := Coder.pull_xval code (k := 3) rfl hthree (by omega)
    rw [Coder.prime, hfour, Buffer.window_eq]
    simp only [Nat.zero_add]
    omega

theorem acinitBody_holds (s : State) : (acinitBody .decode s).ac.Holds s.code 0 := s.ac.fresh.prime_holds s.code

/-! ### The encoder's interval -/

/-- The interval holds the value `w`. -/
def Coder.Encloses (c : Coder) (w : Nat) : Prop := c.low.toNat ≤ w ∧ w ≤ c.high.toNat

/-- A byte sent out over a window of the shifted interval is a window of the interval before (R286). -/
theorem Coder.encloses_of_shift {code : Buffer} {p : Nat} {c : Coder} (htop : c.topAgree = true)
    (hbyte : code.read p = c.high.extractLsb' 24 8) (h : c.shift.Encloses (code.window (p + 1))) :
    c.Encloses (code.window p) := by
  obtain ⟨m, hm, hhere, hnext⟩ := code.window_split p
  obtain ⟨hlow, hhigh⟩ := c.shift_toNat
  have hb := (code.read (p + 4)).isLt
  have htopByte : (code.read p).toNat = c.high.toNat / 2 ^ 24 := by
    have hlt := c.high.isLt
    rw [hbyte, BitVec.extractLsb'_toNat, Nat.shiftRight_eq_div_pow]
    omega
  rw [c.topAgree_iff] at htop
  unfold Coder.Encloses at h ⊢
  rw [hlow, hhigh, hnext] at h
  rw [hhere, htopByte]
  omega

theorem Coder.encloses_of_renorm {code : Buffer} {p : Nat} {c : Coder} (n : Nat)
    (hbytes : ∀ i < (c.outBytes n).length, code.read (p + i) = (c.outBytes n).getD i 0)
    (h : (c.renorm n).Encloses (code.window (p + (c.outBytes n).length))) : c.Encloses (code.window p) := by
  induction n generalizing c p with
  | zero => exact h
  | succ n ih =>
    cases htop : c.topAgree with
    | false =>
      rw [Coder.renorm_of_top htop, Coder.outBytes_of_top htop] at h
      exact h
    | true =>
      rw [Coder.renorm_succ htop, Coder.outBytes_succ htop, List.length_cons] at h
      rw [Coder.outBytes_succ htop, List.length_cons] at hbytes
      refine Coder.encloses_of_shift htop (hbytes 0 (Nat.succ_pos _)) (ih (fun i hi => ?_) ?_)
      · have hbyte := hbytes (i + 1) (Nat.succ_lt_succ hi)
        rw [List.getD_cons_succ] at hbyte
        rw [← hbyte, Nat.add_assoc, Nat.add_comm 1]
      · rw [Nat.add_assoc, Nat.add_comm 1]
        exact h

/-- The part that a decision keeps lies in the interval, and only that decision keeps it (R285, R287). -/
theorem Coder.Ready.choice_of_encloses {c : Coder} (h : c.Ready) {r : Nat} {y : Bool} {w : Nat}
    (hw : (c.advance r y).Encloses w) :
    c.Encloses w ∧ decide (w ≤ (c.mid r).toNat) = y := by
  obtain ⟨hlow, -, hhigh, -⟩ := c.narrow_spec r y h.lt
  have hmid := c.succ_mid_toNat r h.lt
  obtain ⟨hge, hle⟩ : (c.narrow r y).low.toNat ≤ w ∧ w ≤ (c.narrow r y).high.toNat := hw
  refine ⟨⟨hlow.trans hge, hle.trans hhigh⟩, ?_⟩
  cases y with
  | true => exact decide_eq_true hle
  | false =>
    have hgt : (c.mid r + 1).toNat ≤ w := hge
    exact decide_eq_false (by omega)

/-! ### The finished `CODE` -/

/-- `code` is what a coder that stands in `s` and codes the decisions `ys` makes of its `CODE`, with the four
bytes of the flush. -/
structure State.Finishes (code : Buffer) (s : State) (ys : List Bool) : Prop where
  begins : (ys.foldl State.encoded s).code.Begins code
  flushed : (ys.foldl State.encoded s).code.len + 4 = code.len
  encloses : (ys.foldl State.encoded s).ac.Encloses (code.window (ys.foldl State.encoded s).code.len)

theorem State.Finishes.tail {code : Buffer} {s : State} {y : Bool} {ys : List Bool}
    (h : s.Finishes code (y :: ys)) : (s.encoded y).Finishes code ys := ⟨h.begins, h.flushed, h.encloses⟩

theorem State.Finishes.drop {code : Buffer} {s : State} {xs ys : List Bool} (h : s.Finishes code (xs ++ ys)) :
    (xs.foldl State.encoded s).Finishes code ys := by
  obtain ⟨hbegins, hflushed, hencloses⟩ := h
  rw [List.foldl_append] at hbegins hflushed hencloses
  exact ⟨hbegins, hflushed, hencloses⟩

theorem State.begins_encoded (s : State) (y : Bool) : s.code.Begins (s.encoded y).code :=
  Buffer.begins_appendList _ _

theorem State.Finishes.here_begins {code : Buffer} {s : State} {ys : List Bool} (h : s.Finishes code ys) :
    s.code.Begins code ∧ s.code.len + 4 ≤ code.len := by
  induction ys generalizing s with
  | nil => exact ⟨h.begins, Nat.le_of_eq h.flushed⟩
  | cons y ys ih =>
    obtain ⟨hbegins, hlen⟩ := ih h.tail
    have hstep := s.begins_encoded y
    exact ⟨hstep.trans hbegins, (Nat.add_le_add_right hstep.len 4).trans hlen⟩

/-- Before its renormalisation a decision's part of the interval holds the window where `CODE` then ended. -/
theorem State.advance_encloses {code : Buffer} {s : State} {y : Bool}
    (hbegins : (s.encoded y).code.Begins code)
    (h : (s.encoded y).ac.Encloses (code.window (s.encoded y).code.len)) :
    (s.ac.advance s.region y).Encloses (code.window s.code.len) := by
  have hlen : (s.encoded y).code.len = s.code.len + ((s.ac.advance s.region y).outBytes 4).length :=
    Buffer.appendList_len _ _
  rw [hlen] at h
  refine Coder.encloses_of_renorm 4 (fun i hi => ?_) h
  rw [hbegins.read _ (by omega)]
  change (s.code.appendList _).read _ = _
  rw [Buffer.read_appendList, if_neg (by omega), Nat.add_sub_cancel_left]

/-- By induction from the flush backwards. -/
theorem State.Finishes.here_encloses {code : Buffer} {s : State} {ys : List Bool} (hr : s.ac.Ready)
    (h : s.Finishes code ys) : s.ac.Encloses (code.window s.code.len) := by
  induction ys generalizing s with
  | nil => exact h.encloses
  | cons y ys ih =>
    have hnext := ih (State.encoded_ready hr y) h.tail
    exact (hr.choice_of_encloses
      (State.advance_encloses (State.Finishes.here_begins h.tail).1 hnext)).1

/-! ### Encoder and decoder side by side -/

/-- The decoder `d` reads `code` and stands where the encoder stood in `e`. -/
structure Follows (code : Buffer) (e d : State) : Prop where
  coder : d.ac = e.ac.aside d.ac.xval d.ac.cpos
  holds : d.ac.Holds code e.code.len
  code : d.code = code
  cfg : d.cfg = e.cfg
  cfgModel : d.cfgModel = e.cfgModel
  cfgNreg : d.cfgNreg = e.cfgNreg

theorem Follows.region {code : Buffer} {e d : State} (h : Follows code e d) : d.region = e.region := by
  rw [State.region, State.region, h.cfg, h.cfgModel, h.cfgNreg, h.coder]
  rfl

/-- The four bytes of the flush are never requested before the last decision (R290). -/
theorem Follows.cpos_le {code : Buffer} {e d : State} {ys : List Bool} (h : Follows code e d)
    (hfin : e.Finishes code ys) : d.ac.cpos.toNat ≤ d.code.len := by
  rw [h.holds.cpos, h.code]
  exact hfin.here_begins.2

/-- `PLAIN` is not looked at. -/
theorem Follows.setPlain {code : Buffer} {e d : State} (h : Follows code e d) (b : Buffer) :
    Follows code e (d.setBuf .plain b) := ⟨h.coder, h.holds, h.code, h.cfg, h.cfgModel, h.cfgNreg⟩

theorem Coder.advance_aside (c : Coder) (r : Nat) (y : Bool) (x : BitVec 32) (p : BitVec 28) :
    (c.aside x p).advance r y = (c.advance r y).aside x p := by
  cases y with
  | true => rfl
  | false => rfl

/-- `XVAL` lies in the part that the encoder kept, so the decoder chooses it (R287). -/
theorem Follows.choice_eq {code : Buffer} {e d : State} {y : Bool} {ys : List Bool} (h : Follows code e d)
    (hr : e.ac.Ready) (hfin : e.Finishes code (y :: ys)) : (decBody d).2 = y := by
  have hkept := State.advance_encloses hfin.tail.here_begins.1
    (hfin.tail.here_encloses (State.encoded_ready hr y))
  have hmid : d.ac.mid e.region = e.ac.mid e.region := by
    rw [h.coder]
    rfl
  change d.ac.choice d.region = y
  rw [h.region, Coder.choice, h.holds.xval, hmid]
  exact (hr.choice_of_encloses hkept).2

/-- The decoder's interval and model after a decision are the encoder's before its renormalisation. -/
theorem Follows.decBody_ac {code : Buffer} {e d : State} {y : Bool} (h : Follows code e d)
    (hy : (decBody d).2 = y) : (decBody d).1.ac =
      Coder.renormDec code 4 ((e.ac.advance e.region y).aside d.ac.xval d.ac.cpos) := by
  rw [← Coder.advance_aside, ← h.coder, ← h.region, ← hy, ← h.code]
  rfl

/-- The decoder decodes the decision that was coded and follows on (R291). -/
theorem Follows.decBody {code : Buffer} {e d : State} {y : Bool} {ys : List Bool} (h : Follows code e d)
    (hr : e.ac.Ready) (hfin : e.Finishes code (y :: ys)) (hlen : code.len ≤ 2 ^ 28 - 2 ^ 12) :
    (decBody d).2 = y ∧ Follows code (e.encoded y) (decBody d).1 := by
  have hy := h.choice_eq hr hfin
  have hac := h.decBody_ac hy
  refine ⟨hy, ?_, ?_, h.code, h.cfg, h.cfgModel, h.cfgNreg⟩
  · obtain ⟨x, p, hrenorm⟩ :=
      Coder.renormDec_eq code 4 ((e.ac.advance e.region y).aside d.ac.xval d.ac.cpos)
    rw [hac, hrenorm, Coder.renorm_aside]
    rfl
  · have hstart : ((e.ac.advance e.region y).aside d.ac.xval d.ac.cpos).Holds code e.code.len :=
      ⟨h.holds.cpos, h.holds.xval⟩
    have hroom := hfin.here_begins.2
    have hrest := hstart.renormDec 4 (by omega)
    rw [Coder.outBytes_aside, ← Buffer.appendList_len] at hrest
    rw [hac]
    exact hrest

theorem foldl_encoded_ready (ys : List Bool) {s : State} (h : s.ac.Ready) :
    (ys.foldl State.encoded s).ac.Ready := by
  induction ys generalizing s with
  | nil => exact h
  | cons y ys ih => exact ih (State.encoded_ready h y)

/-- The number whose bits are decoded one after another, the first the most significant (R289). -/
def bitsValue (c : Nat) (xs : List Bool) : Nat := xs.foldl (fun v y => 2 * v + y.toNat) c

theorem Follows.decBits {code : Buffer} {e d : State} (xs : List Bool) {ys : List Bool} (c : Nat)
    (h : Follows code e d) (hr : e.ac.Ready) (hfin : e.Finishes code (xs ++ ys))
    (hlen : code.len ≤ 2 ^ 28 - 2 ^ 12) :
    (decBits xs.length c d).2 = bitsValue c xs ∧
      Follows code (xs.foldl State.encoded e) (decBits xs.length c d).1 := by
  induction xs generalizing c e d with
  | nil => exact ⟨rfl, h⟩
  | cons x xs ih =>
    obtain ⟨hx, hnext⟩ := h.decBody hr hfin hlen
    have hrest := ih (2 * c + (Machine.decBody d).2.toNat) hnext (State.encoded_ready hr x) hfin.tail
    rw [List.length_cons, Machine.decBits]
    refine ⟨hrest.1.trans ?_, hrest.2⟩
    rw [hx]
    rfl

/-- The bits of a byte have its value. -/
theorem bitsValue_byteBits (v : Byte) : bitsValue 0 (byteBits v) = v.toNat :=
  (⟨1, [(0, v)]⟩ : Buffer).bits_byte 0

/-! ### The whole stream -/

theorem decisions_cons (v : Byte) (vs : List Byte) :
    decisions (v :: vs) = false :: (byteBits v ++ decisions vs) := by
  simp [decisions]

theorem State.afterByte_plain_bytes (s : State) :
    s.afterByte.plain.bytes = s.plain.bytes ++ [BitVec.ofNat 8 s.symbol.2] := by
  obtain ⟨a, r, hsym⟩ := s.symbol_eq
  have hbuf : s.afterByte.plain = s.plain.appendList [BitVec.ofNat 8 s.symbol.2] := by
    rw [State.afterByte, hsym]
    rfl
  rw [hbuf, Buffer.bytes_appendList]

/-- Symbol by symbol up to the terminal flag (R288, R289). -/
theorem acdecLoop_decodes {code : Buffer} (hlen : code.len ≤ 2 ^ 28 - 2 ^ 12) (vs : List Byte) {e d : State}
    (h : Follows code e d) (hr : e.ac.Ready) (hfin : e.Finishes code (decisions vs))
    (hcap : d.cap .plain = none) (hlast : d.lastErr = 0) :
    ∃ u, acdecLoop (vs.length + 1) d = .next u ∧ u.plain.bytes = d.plain.bytes ++ vs ∧
      u.ac.cpos.toNat = code.len ∧ u.lastErr = 0 := by
  induction vs generalizing e d with
  | nil =>
    have hcpos := h.cpos_le hfin
    obtain ⟨hflag, hend⟩ := h.decBody hr hfin hlen
    refine ⟨_, acdecLoop_flag 0 hcpos hflag, (List.append_nil _).symm, ?_, hlast⟩
    exact hend.holds.cpos.trans hfin.flushed
  | cons v vs ih =>
    rw [decisions_cons] at hfin
    have hcpos := h.cpos_le hfin
    obtain ⟨hflag, hbits⟩ := h.decBody hr hfin hlen
    have hready := State.encoded_ready hr false
    obtain ⟨hvalue, hnext⟩ := hbits.decBits (byteBits v) 0 hready hfin.tail hlen
    rw [bitsValue_byteBits] at hvalue
    have hroom := full_of_unbounded ((d.symbol_cap .plain).trans hcap)
    obtain ⟨u, he, hbytes, hpos, hzero⟩ := ih (d := d.afterByte) (hnext.setPlain _)
      (foldl_encoded_ready (byteBits v) hready) hfin.tail.drop ((d.afterByte_cap .plain).trans hcap)
      (d.afterByte_lastErr.trans hlast)
    refine ⟨u, ?_, ?_, hpos, hzero⟩
    · rw [List.length_cons, acdecLoop_stored _ hcpos hflag hroom, he]
    · have hv : d.symbol.2 = v.toNat := hvalue
      rw [hbytes, State.afterByte_plain_bytes, hv, BitVec.ofNat_toNat, BitVec.setWidth_eq, List.append_assoc]
      rfl

theorem foldl_encoded_cap (ys : List Bool) (s : State) : (ys.foldl State.encoded s).cap .code = s.cap .code := by
  induction ys generalizing s with
  | nil => rfl
  | cons y ys ih => exact ih (s.encoded y)

theorem encBits_unbounded (ys : List Bool) {s : State} (h : s.cap .code = none) :
    encBits ys s = .go (ys.foldl State.encoded s) := by
  induction ys generalizing s with
  | nil => rfl
  | cons y ys ih =>
    rw [encBits, encBody_unbounded h]
    exact ih (s := s.encoded y) h

/-- The state after the decisions of `ACENC`, with `CODE` unbounded. -/
def State.coded (s : State) : State := (decisions s.plain.bytes).foldl State.encoded (acinitBody .encode s)

theorem acencBody_unbounded {s : State} (h : s.cap .code = none) :
    acencBody s = .go { s.coded with
      code := s.coded.code.appendList (wordBytes s.coded.ac.low), acMode := .idle } := by
  rw [acencBody, encBits_unbounded _ (s := acinitBody .encode s) h, Flow.bind_go]
  exact flushBody_unbounded ((foldl_encoded_cap _ _).trans h)

theorem State.coded_ready (s : State) : s.coded.ac.Ready :=
  foldl_encoded_ready _ (acinitBody_ready .encode s)

/-- The flush appends `LOW`, which the interval holds (R290). -/
theorem State.coded_finishes (s : State) : (acinitBody .encode s).Finishes
    (s.coded.code.appendList (wordBytes s.coded.ac.low)) (decisions s.plain.bytes) where
  begins := s.coded.code.begins_appendList _
  flushed := (Buffer.appendList_len s.coded.code (wordBytes s.coded.ac.low)).symm
  encloses := by
    change s.coded.ac.Encloses (Buffer.window _ s.coded.code.len)
    rw [Buffer.window_wordBytes]
    exact ⟨Nat.le_refl _, s.coded_ready.le⟩

theorem acdecLoop_unique {m n : Nat} {s t u : State} (ht : acdecLoop m s = .next t)
    (hu : acdecLoop n s = .next u) : t = u := by
  have htmax := acdecLoop_mono (Nat.le_max_left m n) ht
  rw [acdecLoop_mono (Nat.le_max_right m n) hu] at htmax
  exact (Host.Outcome.next.inj htmax).symm

/-- The decoder starts where the encoder started (R281). -/
theorem acinitBody_follows {s t : State} (hcfg : t.cfg = s.cfg) (hmodel : t.cfgModel = s.cfgModel)
    (hnreg : t.cfgNreg = s.cfgNreg) : Follows t.code (acinitBody .encode s) (acinitBody .decode t) :=
  ⟨rfl, acinitBody_holds t, rfl, hcfg, hmodel, hnreg⟩

/-- Settles O42: the decoder follows the encoder to the terminal flag, and `ACDEC` has the fuel for it. -/
theorem decodeInvertsEncode : Obligations.DecodeInvertsEncode := by
  intro s t hplain hcode henc hlen
  have hunchanged := exec_acenc_unchanged henc
  have hcfg : t.cfg = s.cfg := hunchanged .cfg (by decide)
  have hfollows : Follows t.code (acinitBody .encode (accept s)) (acinitBody .decode (accept t)) :=
    acinitBody_follows (s := accept s) (t := accept t) hcfg (hunchanged .cfgModel (by decide))
      (hunchanged .cfgNreg (by decide))
  have hfin : (acinitBody .encode (accept s)).Finishes t.code (decisions s.plain.bytes) := by
    rw [exec_acenc, acencBody_unbounded (s := accept s) hcode] at henc
    cases henc
    exact (accept s).coded_finishes
  obtain ⟨v, hv, hbytes, hcpos, hlast⟩ := acdecLoop_decodes hlen s.plain.bytes hfollows
    (acinitBody_ready .encode (accept s)) hfin ((congrArg Config.plainCap hcfg).trans hplain) rfl
  obtain ⟨u, hu⟩ := exec_acdec_completes hlen
  obtain rfl := acdecLoop_unique hv hu
  exact ⟨v, hu, hbytes, hcpos, hlast⟩

end Sys2Proof.Machine

/-! ## `SCF` as its pseudocode (R206 to R209)

The rule reads and stores one scale factor after another; the body reads the whole layout and then stores it. -/

namespace Sys2Proof.Reference

open Sys2Proof.Machine

/-- One scale factor of a layout put into its image. -/
def putSlot (gr ch : Fin 2) (dest : ScfDest) (v : BitVec 4) (s : State) : State :=
  match dest with
  | .long sfb => setL gr ch sfb v s
  | .short win sfb => setS gr ch win sfb v s

/-- One slot of a layout as the rule treats it: shared, or read, and then stored. -/
def storeSlot (gr ch : Fin 2) (s : State) (slot : ScfSlot) : State :=
  match slot.shared with
  | some v => putSlot gr ch slot.dest v s
  | none => putSlot gr ch slot.dest (BitVec.ofNat 4 (take .mdbuf slot.width s).1) (take .mdbuf slot.width s).2

/-- The two images of (gr, ch) after the writes of some values (R206). -/
def putAll (gr ch : Fin 2) (vs : List (ScfDest × BitVec 4)) (s : State) : State :=
  { s with
    scfL := Memory.writeAll s.scfL (longWrites gr ch vs)
    scfS := Memory.writeAll s.scfS (shortWrites gr ch vs) }

theorem putAll_cons (gr ch : Fin 2) (dest : ScfDest) (v : BitVec 4) (vs : List (ScfDest × BitVec 4)) (s : State) :
    putAll gr ch ((dest, v) :: vs) s = putAll gr ch vs (putSlot gr ch dest v s) := by
  cases dest <;> rfl

theorem putSlot_mdbuf (gr ch : Fin 2) (dest : ScfDest) (v : BitVec 4) (s : State) :
    (putSlot gr ch dest v s).mdbuf = s.mdbuf := by
  cases dest <;> rfl

theorem putSlot_applyCursor (gr ch : Fin 2) (dest : ScfDest) (v : BitVec 4) (c : Cursor) (s : State) :
    putSlot gr ch dest v (applyCursor c s) = applyCursor c (putSlot gr ch dest v s) := by
  obtain ⟨cur, miss⟩ := c
  cases dest <;> cases miss <;> rfl

theorem storeSlot_applyCursor (gr ch : Fin 2) (slot : ScfSlot) (c : Cursor) (s : State) :
    storeSlot gr ch (applyCursor c s) slot =
      applyCursor (readSlot s.mdbuf slot c).2 (putSlot gr ch slot.dest (readSlot s.mdbuf slot c).1 s) := by
  unfold storeSlot readSlot
  cases slot.shared with
  | some v => exact putSlot_applyCursor gr ch slot.dest v c s
  | none => simp only [take_applyCursor, putSlot_applyCursor]

/-- A layout read and stored slot by slot is the layout read, then stored (R206). -/
theorem storeSlots_applyCursor (gr ch : Fin 2) (slots : List ScfSlot) (c : Cursor) (s : State) :
    slots.foldl (storeSlot gr ch) (applyCursor c s) =
      applyCursor (readSlots s.mdbuf slots c).2 (putAll gr ch (readSlots s.mdbuf slots c).1 s) := by
  induction slots generalizing c s with
  | nil => rfl
  | cons slot slots ih =>
    rw [List.foldl_cons, storeSlot_applyCursor, ih, putSlot_mdbuf, readSlots_cons, putAll_cons]

/-- The state `SCF` goes on from once it has noted where it starts and zeroed the two images (R206). -/
def scfStart (gr ch : Fin 2) (s : State) : State :=
  { s with
    p2start := s.cur
    scfL := Memory.clear s.scfL (scfLBase gr ch) (scfLBase gr ch + 21)
    scfS := Memory.clear s.scfS (scfSBase gr ch) (scfSBase gr ch + 39) }

theorem scfBody_eq_storeSlots (gr ch : Fin 2) (s : State) :
    scfBody gr ch s = (scfSlots s gr ch).foldl (storeSlot gr ch) (scfStart gr ch s) := by
  have hstore := storeSlots_applyCursor gr ch (scfSlots s gr ch) s.cursor (scfStart gr ch s)
  exact hstore.symm

/-! ### The layouts -/

/-- The short and the mixed layout of the rule store the layout's slots in order (R208, R209). -/
theorem shortBands_eq_storeSlots (gr ch : Fin 2) (width lo n : Nat) (s : State) :
    shortBands gr ch width ((List.range n).map (lo + ·)) s =
      (shortSlots lo (lo + n) width).foldl (storeSlot gr ch) s := by
  rw [shortSlots_eq, Nat.add_sub_cancel_left, List.foldl_flatMap, shortBands, List.foldl_map]
  rfl

theorem mixedLongs_eq_storeSlots (gr ch : Fin 2) (width : Nat) (s : State) :
    (List.range 8).foldl (fun s sfb => readL gr ch width sfb s) s =
      (mixedLongSlots width).foldl (storeSlot gr ch) s := by
  rw [mixedLongSlots_eq, List.foldl_map]
  rfl

/-- What the sharing of the long layout rests on: the flags, and granule 0's scale factors (R207). -/
structure SharesAs (gr ch : Fin 2) (s u : State) : Prop where
  scfsi : u.scfsi = s.scfsi
  first : gr = 1 → ∀ sfb < 21, Memory.read u.scfL (scfLAddr 0 ch sfb) = Memory.read s.scfL (scfLAddr 0 ch sfb)

theorem sharesAs_scfStart (gr ch : Fin 2) (s : State) : SharesAs gr ch s (scfStart gr ch s) where
  scfsi := rfl
  first hgr sfb hsfb := by
    subst hgr
    have hbase : ¬ (scfLBase 1 ch ≤ scfLAddr 0 ch sfb ∧ scfLAddr 0 ch sfb < scfLBase 1 ch + 21) := by
      unfold scfLAddr scfLBase
      simp only [Fin.val_one, Fin.val_zero]
      omega
    exact (Memory.read_clear _ _ _ _).trans (if_neg hbase)

theorem SharesAs.storeLongSlot {gr ch : Fin 2} {s u : State} (h : SharesAs gr ch s u) {slen1 slen2 sfb : Nat}
    (hsfb : sfb < 21) : SharesAs gr ch s (storeSlot gr ch u (longSlot s gr ch slen1 slen2 sfb)) := by
  obtain ⟨cu, hcu⟩ : ∃ c : Cursor, storeSlot gr ch u (longSlot s gr ch slen1 slen2 sfb) =
      applyCursor c (setL gr ch sfb (readSlot u.mdbuf (longSlot s gr ch slen1 slen2 sfb) u.cursor).1 u) :=
    ⟨_, storeSlot_applyCursor gr ch (longSlot s gr ch slen1 slen2 sfb) u.cursor u⟩
  rw [hcu]
  refine ⟨(applyCursor_scfsi _ _).trans h.scfsi, fun hgr k hk => ?_⟩
  have haddr : scfLAddr 0 ch k ≠ scfLAddr gr ch sfb := by
    subst hgr
    unfold scfLAddr scfLBase
    simp only [Fin.val_one, Fin.val_zero]
    omega
  rw [applyCursor_scfL, ← h.first hgr k hk]
  exact (Memory.read_write _ _ _ _).trans (if_neg haddr)

/-- A long band of the rule is the layout's slot, in a state that shares as the first one does (R207). -/
theorem SharesAs.longBand_eq {gr ch : Fin 2} {s u : State} (h : SharesAs gr ch s u) (slen1 slen2 : Nat)
    {sfb : Nat} (hsfb : sfb < 21) :
    longBand gr ch slen1 slen2 sfb u = storeSlot gr ch u (longSlot s gr ch slen1 slen2 sfb) := by
  have hband : sharedBand s gr ch sfb = true ↔ gr = 1 ∧ u.scfsi.getLsbD
      (4 * ch.val + (if sfb < 6 then 0 else if sfb < 11 then 1 else if sfb < 16 then 2 else 3)) = true := by
    rw [sharedBand, Bool.and_eq_true, decide_eq_true_eq, h.scfsi]
  unfold longBand storeSlot longSlot
  by_cases hs : sharedBand s gr ch sfb = true
  · simp only [if_pos hs]
    rw [if_pos (hband.mp hs), h.first (hband.mp hs).1 sfb hsfb]
    rfl
  · simp only [if_neg hs]
    exact if_neg (hband.not.mp hs)

theorem longBands_eq_storeSlots (gr ch : Fin 2) (slen1 slen2 : Nat) (l : List Nat) {s u : State}
    (hl : ∀ sfb ∈ l, sfb < 21) (h : SharesAs gr ch s u) :
    l.foldl (fun s sfb => longBand gr ch slen1 slen2 sfb s) u =
      (l.map (longSlot s gr ch slen1 slen2)).foldl (storeSlot gr ch) u := by
  induction l generalizing u with
  | nil => rfl
  | cons sfb l ih =>
    obtain ⟨hsfb, hrest⟩ := List.forall_mem_cons.mp hl
    rw [List.foldl_cons, List.map_cons, List.foldl_cons, h.longBand_eq slen1 slen2 hsfb]
    exact ih hrest (h.storeLongSlot hsfb)

/-- `SCF` of the rule is the body (R206 to R209). -/
theorem scf_eq (gr ch : Fin 2) (s : State) : scf gr ch s = scfBody gr ch s := by
  have hwide : [6, 7, 8, 9, 10, 11] = (List.range 6).map (6 + ·) := rfl
  rw [scfBody_eq_storeSlots]
  by_cases hshort : (s.si.get gr ch).wsw = 1 ∧ (s.si.get gr ch).btype = 2
  case neg =>
    rw [scfSlots_of_long hshort, longSlots_eq]
    refine (if_neg hshort).trans ?_
    exact longBands_eq_storeSlots gr ch _ _ _ (fun _ => List.mem_range.mp) (sharesAs_scfStart gr ch s)
  case pos =>
    rw [scfSlots_of_short hshort.1 hshort.2, shortLayout]
    refine (if_pos hshort).trans ?_
    by_cases hmixed : (s.si.get gr ch).mixed = 1
    · rw [decide_eq_true hmixed, List.foldl_append, List.foldl_append]
      refine (if_pos hmixed).trans ?_
      rw [hwide, shortBands_eq_storeSlots, mixedLongs_eq_storeSlots,
        show [3, 4, 5] = (List.range 3).map (3 + ·) from rfl, shortBands_eq_storeSlots]
      rfl
    · rw [decide_eq_false hmixed, List.foldl_append, List.foldl_append]
      refine (if_neg hmixed).trans ?_
      rw [hwide, shortBands_eq_storeSlots, show [0, 1, 2, 3, 4, 5] = (List.range 6).map (0 + ·) from rfl,
        shortBands_eq_storeSlots]
      rfl

end Sys2Proof.Reference

/-! ## The container commands (45_container_orchestrator.md) -/

namespace Sys2Proof.Reference

open Sys2Proof.Machine

/-! ### `SER` and `ACENC` (R321, R288) -/

/-- Granule by granule and channel by channel is the order of the rules. -/
theorem flatMap_grChOrder {α : Type} (f : Nat → Nat → List α) {n : Nat} (h : n = 1 ∨ n = 2) :
    ((List.range 2).flatMap fun gr => (List.range n).flatMap (f gr)) =
      (grChOrder n).flatMap fun p => f p.1.val p.2.val := by
  rcases h with rfl | rfl <;> simp [grChOrder, List.range_succ]

/-- The plain stream of one or two channels, granule by granule (30_encoding.md R128). -/
theorem plainStream_eq (samp : Memory 16) {n : Nat} (h : n = 1 ∨ n = 2) :
    plainStream samp n = (grChOrder n).flatMap fun p => granuleBytes samp p.1 p.2 :=
  flatMap_grChOrder _ h

theorem channels_eq {s : State} (h : s.hdr.channels = 1 ∨ s.hdr.channels = 2) :
    s.channels = s.hdr.channels.toNat ∧ (s.hdr.channels.toNat = 1 ∨ s.hdr.channels.toNat = 2) := by
  unfold State.channels
  rcases h with h | h <;> rw [h] <;> decide

theorem plainStream_eq_serBytes {s : State} (h : s.hdr.channels = 1 ∨ s.hdr.channels = 2) :
    plainStream s.samp s.hdr.channels.toNat = serBytes s := by
  obtain ⟨hchannels, hn⟩ := channels_eq h
  rw [plainStream_eq s.samp hn, serBytes, hchannels]

/-- Two bytes a sample, 576 samples a granule and channel, two granules (R128). -/
theorem plainStream_length (samp : Memory 16) (n : Nat) : (plainStream samp n).length = 2304 * n := by
  have hgranule : ∀ f : Nat → BitVec 16, ((List.range 576).flatMap fun i =>
      [(f i).extractLsb' 8 8, (f i).extractLsb' 0 8]).length = 1152 := fun f => by
    rw [List.length_flatMap, show (fun i => [(f i).extractLsb' 8 8, (f i).extractLsb' 0 8].length) = fun _ => 2 from
      rfl, List.map_const', List.sum_replicate, List.length_range]
    rfl
  unfold plainStream
  simp only [List.length_flatMap, hgranule, List.map_const', List.sum_replicate, List.length_range, smul_eq_mul]
  omega

theorem ser_eq {s : State} (h : s.hdr.channels = 1 ∨ s.hdr.channels = 2) : ser s = serBody s := by
  unfold ser
  rw [appends_eq, plainStream_eq_serBytes h]
  rfl

theorem acenc_eq (s : State) : acenc s = acencBody s := by
  have hbytes : byteDecisions = fun v => false :: byteBits v := funext byteDecisions_eq
  have hflush : acflush = flushBody := funext acflush_eq
  rw [acenc, hbytes, hflush, reference_acinit_eq, reference_encAll_eq _ (acinitBody_ready .encode s)]
  rfl

/-! ### `EMIT` (R323) -/

theorem halfBytes_eq (n : Nat) :
    [BitVec.ofNat 8 (n / 256), BitVec.ofNat 8 n] = halfBytes (BitVec.ofNat 16 n) := by
  have hhigh : BitVec.ofNat 8 (n / 256) = (BitVec.ofNat 16 n).extractLsb' 8 8 := by
    apply BitVec.eq_of_toNat_eq
    simp only [BitVec.toNat_ofNat, BitVec.extractLsb'_toNat, Nat.shiftRight_eq_div_pow]
    omega
  have hlow : BitVec.ofNat 8 n = (BitVec.ofNat 16 n).extractLsb' 0 8 := by
    apply BitVec.eq_of_toNat_eq
    simp only [BitVec.toNat_ofNat, BitVec.extractLsb'_toNat, Nat.shiftRight_eq_div_pow]
    omega
  rw [hhigh, hlow, halfBytes]

end Sys2Proof.Reference

namespace Sys2Proof.Machine

/-- Two continuations that agree on the state a flow goes on with. -/
theorem Flow.bind_congr_of_go {f : Flow} {k l : State → Flow} (h : ∀ t, f = .go t → k t = l t) :
    f.bind k = f.bind l := by
  cases f with
  | go t => exact h t rfl
  | halt t => rfl

theorem appendAll_obuf_code {vs : List Byte} {s t : State} (h : appendAll .obuf vs s = .go t) :
    t.code = s.code := by
  have hkept : (appendAll .obuf vs s).state.code = s.code :=
    appendAll_keeps (P := fun u => u.code = s.code) .obuf vs s rfl (fun _ _ hu => hu) (fun _ _ hu => hu)
  rw [h] at hkept
  exact hkept

end Sys2Proof.Machine

namespace Sys2Proof.Reference

open Sys2Proof.Machine

/-- The rule appends length and payload in one go, the body one after the other; neither writes `CODE` (R323). -/
theorem emitFrame_eq (s : State) : emitFrame s = Machine.emitFrame s := by
  unfold emitFrame Machine.emitFrame writeFrame
  refine ite_congr rfl (fun _ => rfl) fun _ => ?_
  have hcopy : copyOut s.prefixLen s.foff.toNat s = copyHeader s.prefixLen s.foff.toNat s := copyOut_eq _ _ _
  refine (congrArg (Flow.bind · _) hcopy).trans ?_
  refine Flow.bind_congr_of_go fun t _ => ?_
  rw [appends_eq, halfBytes_eq, appendAll_append, Flow.bind_assoc]
  refine Flow.bind_congr_of_go fun u hu => ?_
  rw [appendAll_obuf_code hu]

theorem emit_eq {s : State} (h : s.hdr.channels = 1 ∨ s.hdr.channels = 2) : emit s = emitBody s := by
  have hacenc : acenc = acencBody := funext acenc_eq
  have hframe : emitFrame = Machine.emitFrame := funext emitFrame_eq
  rw [emit, ser_eq h, hacenc, hframe]
  rfl

/-! ### `FRAME` (R326) -/

/-- An accepted header is of one or two channels (R182). -/
theorem hdrBody_channels {s : State} (h : (hdrBody s).hValid = true) :
    (hdrBody s).hdr.channels = 1 ∨ (hdrBody s).hdr.channels = 2 := by
  cases hrej : headerRejected s.headerWord with
  | true =>
    rw [hdrBody_of_rejected hrej, raise_hValid, State.headerRead, noteMissing_hValid, clearValid_hValid] at h
    cases h
  | false =>
    rw [hdrBody_of_accepted hrej, parseHeader]
    exact ite_eq_or_eq _ _ _

theorem granules_failed (l : List (Fin 2 × Fin 2)) (s : State) : granules l (s, false) = (s, false) := by
  induction l with
  | nil => rfl
  | cons p l ih => exact ih

/-- The granules decoded under the flag `ok` are those decoded until one fails (R326). -/
theorem granules_eq (l : List (Fin 2 × Fin 2)) (s : State) :
    (granules l (s, true)).1 = decodeGranules l s := by
  induction l generalizing s with
  | nil => rfl
  | cons p l ih =>
    obtain ⟨gr, ch⟩ := p
    rw [granules, if_pos rfl, decodeGranules, scf_eq, spec_eq]
    obtain ⟨t, _ | _⟩ := specBody gr ch (scfBody gr ch s)
    · rw [granules_failed]
    · exact ih t

theorem grChOrder_eq {s : State} (h : s.hdr.channels = 1 ∨ s.hdr.channels = 2) :
    (if s.hdr.channels = 1 then [(0, 0), (1, 0)] else [(0, 0), (0, 1), (1, 0), (1, 1)]) =
      grChOrder s.channels := by
  unfold State.channels
  rcases h with h | h <;> rw [h] <;> rfl

theorem decodeFrame_eq {s : State} (h : s.hdr.channels = 1 ∨ s.hdr.channels = 2) :
    decodeFrame s = frameDecode s := by
  have hhdr : (resvBody (zeroGranules (sideBody s))).hdr = s.hdr :=
    (resvBody_unchanged _ .hdr (by decide)).trans (sideBody_unchanged s .hdr (by decide))
  unfold decodeFrame frameDecode
  simp only [side_eq h, zeroed_eq, resv_eq, granules_eq]
  rw [grChOrder_eq (s := resvBody (zeroGranules (sideBody s))) (by rw [hhdr]; exact h)]

end Sys2Proof.Reference

namespace Sys2Proof.Machine

/-! The four ways `FRAME` can go (R326). -/

theorem supported_iff (s : State) : s.supported = true ↔ s.hdr.version = 3 ∧ s.hdr.layer = 3 := by
  rw [State.supported, Bool.and_eq_true, beq_iff_eq, beq_iff_eq]

theorem frameBody_of_end {s : State} (h : s.ibuf.len ≤ s.foff.toNat + 4) :
    frameBody s = .go { s with done := true } :=
  if_neg (by rw [State.moreInput, decide_eq_true_eq]; omega)

theorem frameBody_of_more {s : State} (h : s.foff.toNat + 4 < s.ibuf.len) :
    frameBody s = frameAfterHdr (hdrBody s) :=
  if_pos (decide_eq_true h)

theorem frameAfterHdr_of_rejected {s : State} (h : s.hValid = false) : frameAfterHdr s = .go (skipByte s) :=
  if_pos (by rw [h]; rfl)

theorem frameAfterHdr_of_unsupported {s : State} (h : s.hValid = true)
    (hsupp : ¬ (s.hdr.version = 3 ∧ s.hdr.layer = 3)) : frameAfterHdr s = .go (skipFrame s) := by
  rw [← supported_iff, Bool.not_eq_true] at hsupp
  rw [frameAfterHdr, h, hsupp]
  rfl

theorem frameAfterHdr_of_supported {s : State} (h : s.hValid = true)
    (hsupp : s.hdr.version = 3 ∧ s.hdr.layer = 3) :
    frameAfterHdr s = (emitBody (frameDecode s)).bind fun t => .go (advBody t) := by
  rw [frameAfterHdr, h, (supported_iff s).mpr hsupp]
  rfl

end Sys2Proof.Machine

namespace Sys2Proof.Reference

open Sys2Proof.Machine

/-- `FRAME` of the rule is the body (R326). -/
theorem frame_eq (s : State) : frame s = frameBody s := by
  unfold frame
  by_cases hmore : s.ibuf.len ≤ s.foff.toNat + 4
  case pos => rw [if_pos hmore, frameBody_of_end hmore]
  case neg =>
    rw [if_neg hmore, frameBody_of_more (Nat.lt_of_not_le hmore), reference_hdr_eq]
    cases hv : (hdrBody s).hValid with
    | false =>
      rw [frameAfterHdr_of_rejected hv]
      exact if_pos hv
    | true =>
      refine (if_neg (by rw [hv]; decide)).trans ?_
      have hchannels := hdrBody_channels hv
      have hhdr : (frameDecode (hdrBody s)).hdr = (hdrBody s).hdr :=
        frameDecode_unchanged (hdrBody s) .hdr (by decide)
      by_cases hsupp : (hdrBody s).hdr.version = 3 ∧ (hdrBody s).hdr.layer = 3
      case neg =>
        rw [frameAfterHdr_of_unsupported hv hsupp]
        exact if_pos hsupp
      case pos =>
        rw [frameAfterHdr_of_supported hv hsupp]
        refine (if_neg (not_not_intro hsupp)).trans ?_
        rw [decodeFrame_eq hchannels, emit_eq (by rw [hhdr]; exact hchannels)]
        rfl

end Sys2Proof.Reference

/-! ## What a frame's output rests on (45_container_orchestrator.md R327)

`FRAME` goes through its sub-steps knowing more and more of the state: first the input, then the header, the side
information, the main data, and so on. For each stage there is a state that holds what is known and is at reset
elsewhere; a sub-step respects the stages when what is known after it rests on what is known before it. -/

namespace Sys2Proof.Machine

/-- What `FRAME` starts from: the input, the position, the history, the coder configuration, the tables and the
output so far. -/
def State.input (s : State) : State :=
  { State.reset with
    ibuf := s.ibuf
    foff := s.foff
    ring := s.ring
    cfgModel := s.cfgModel
    cfgNreg := s.cfgNreg
    cfg := s.cfg
    obuf := s.obuf }

/-- What is known after an accepted header. -/
def State.headed (s : State) : State := { s.input with hdr := s.hdr }

/-- What is known after `SIDE` and the zeroed memories. -/
def State.sided (s : State) : State :=
  { s.headed with mdb := s.mdb, scfsi := s.scfsi, si := s.si, scfL := s.scfL, scfS := s.scfS, samp := s.samp }

/-- What is known after `RESV`, and between granules. -/
def State.resolved (s : State) : State := { s.sided with mdbuf := s.mdbuf, mdValid := s.mdValid, cur := s.cur }

/-- What is known after `SCF`. -/
def State.scaled (s : State) : State := { s.resolved with p2start := s.p2start }

/-- What is known while `SPEC` decodes words. -/
def State.indexed (s : State) : State := { s.scaled with idx := s.idx }

/-- What is known after `SER`. -/
def State.serialised (s : State) : State := { s.headed with plain := s.plain }

/-- What is known from the start of `ACENC` on: the decoder's own registers are not. -/
def State.coding (s : State) : State := { s.serialised with code := s.code, ac := s.ac.aside 0 0 }

/-! ### The parser's sub-steps -/

theorem noteMissing_sided (m : Option Nat) (s : State) : (noteMissing m s).sided = s.sided := by
  rw [noteMissing_eq]
  rfl

theorem noteCopies_sided (b : Buffer) (parts : List (Nat × Nat)) (s : State) :
    (noteCopies b parts s).sided = s.sided := by
  induction parts generalizing s with
  | nil => rfl
  | cons p parts ih => rw [noteCopies_cons, ih, noteMissing_sided]

/-- `HDR` decides by the input whether the header is accepted, and then knows it. -/
theorem hdrBody_respects {s t : State} (h : s.input = t.input) :
    (hdrBody s).input = (hdrBody t).input ∧ (hdrBody s).hValid = (hdrBody t).hValid ∧
      ((hdrBody s).hValid = true → (hdrBody s).headed = (hdrBody t).headed) := by
  have hword : s.headerWord = t.headerWord := (congrArg State.headerWord h :)
  have hread : ∀ u : State, u.headerRead.input = u.input := fun u => by
    rw [State.headerRead, noteMissing_eq]
    rfl
  have hinput : s.headerRead.input = t.headerRead.input := by rw [hread, hread, h]
  cases hrej : headerRejected s.headerWord with
  | true =>
    have hinvalid : ∀ u : State, u.headerRead.hValid = false := fun u => by
      rw [State.headerRead, noteMissing_hValid, clearValid_hValid]
    rw [hdrBody_of_rejected hrej, hdrBody_of_rejected (hword ▸ hrej), raise_hValid, raise_hValid]
    refine ⟨hinput, (hinvalid s).trans (hinvalid t).symm, fun hv => ?_⟩
    rw [hinvalid s] at hv
    cases hv
  | false =>
    rw [hdrBody_of_accepted hrej, hdrBody_of_accepted (hword ▸ hrej), hword]
    refine ⟨hinput, rfl, fun _ => ?_⟩
    exact (congrArg (fun u : State => { u with hdr := parseHeader u.cfg t.headerWord }) hinput :)

/-- Of the blocks of the frame before, `SIDE` keeps `NZC` only (R190). -/
theorem sideBlockOf_clearNzc (b : Buffer) (pos n : Nat) (gr ch : Fin 2) (g g' : SideBlock) :
    (sideBlockOf b pos n gr ch g).clearNzc = (sideBlockOf b pos n gr ch g').clearNzc := by
  unfold sideBlockOf
  split <;> rfl

theorem zeroGranules_sideBody_respects (s : State) :
    (zeroGranules (sideBody s)).sided = (zeroGranules (sideBody s.headed)).sided := by
  unfold sideBody
  simp only
  rw [noteMissing_eq, noteMissing_eq (s.headed.ibuf.missing _ _)]
  unfold zeroGranules State.sided
  simp only [sideBlockOf_clearNzc _ _ _ _ _ _ SideBlock.reset]
  rfl

theorem resvBody_respects (s : State) : (resvBody s).resolved = (resvBody s.sided).resolved := by
  have hown : ∀ u : State, u.ownCopied.sided = u.sided := fun u => noteMissing_sided _ u
  by_cases hmdb : s.mdb = 0
  case pos =>
    rw [resvBody_of_mdb_zero hmdb, resvBody_of_mdb_zero (s := s.sided) hmdb]
    exact (congrArg (fun u : State =>
      { u with mdbuf := Buffer.ofBytes s.ownBytes, mdValid := true, cur := 0 }) ((hown s).trans (hown s.sided).symm) :)
  case neg =>
    rw [resvBody_of_mdb_ne_zero hmdb, resvBody_of_mdb_ne_zero (s := s.sided) hmdb,
      show s.sided.walk = s.walk from rfl]
    cases s.walk with
    | none =>
      exact (congrArg (fun u : State => { u with mdbuf := Buffer.empty, mdValid := false, cur := 0 })
        ((hown s).trans (hown s.sided).symm) :)
    | some found =>
      obtain ⟨acc, parts⟩ := found
      have hcopies : (noteCopies s.ibuf parts s.ownCopied).sided = (noteCopies s.ibuf parts s.sided.ownCopied).sided := by
        rw [noteCopies_sided, noteCopies_sided, hown, hown]
        rfl
      exact (congrArg (fun u : State =>
        { u with
          mdbuf := Buffer.ofBytes
            ((parts.flatMap fun r : Nat × Nat => copyBytes s.ibuf r.1 r.2).drop (acc - s.mdb.toNat) ++ s.ownBytes)
          mdValid := true
          cur := 0 }) hcopies :)

/-! ### The granules -/

theorem scfBody_respects (gr ch : Fin 2) (s : State) :
    (scfBody gr ch s).scaled = (scfBody gr ch s.resolved).scaled := by
  unfold scfBody applyCursor
  simp only
  rw [noteMissing_eq, noteMissing_eq (readSlots s.resolved.mdbuf _ _).2.miss]
  rfl

/-- Two decodings end alike: both with or both without a failed word, and with the same known. -/
def Alike (known : State → State) (d e : State × Bool) : Prop := known d.1 = known e.1 ∧ d.2 = e.2

theorem noteMissing_indexed (m : Option Nat) (s : State) : (noteMissing m s).indexed = s.indexed := by
  rw [noteMissing_eq]
  rfl

theorem applyCursor_indexed (c : Cursor) (s : State) :
    (applyCursor c s).indexed = { s.indexed with cur := c.cur } := by
  rw [applyCursor, noteMissing_indexed]
  rfl

theorem storeWord_respects (gr ch : Fin 2) (vs : Option (List Int)) (c : Cursor) (s : State) :
    Alike State.indexed (storeWord gr ch vs c s) (storeWord gr ch vs c s.indexed) := by
  cases vs with
  | none => exact ⟨(noteMissing_indexed c.miss s).trans (noteMissing_indexed c.miss s.indexed).symm, rfl⟩
  | some vs =>
    have hput : ∀ u : State, (storeWord gr ch (some vs) c u).1.indexed =
        { u.indexed with
          samp := Memory.writeAll u.samp (sampWrites gr ch u.idx.toNat vs)
          idx := u.idx + BitVec.ofNat 10 vs.length
          cur := c.cur } := fun u => applyCursor_indexed c _
    exact ⟨(hput s).trans (hput s.indexed).symm, rfl⟩

theorem Alike.of_respects {a b : State → State} {f : State → State × Bool}
    (hf : ∀ s, Alike b (f s) (f (a s))) {s t : State} (h : a s = a t) : Alike b (f s) (f t) := by
  obtain ⟨hs, hs'⟩ := hf s
  obtain ⟨ht, ht'⟩ := hf t
  rw [h] at hs hs'
  exact ⟨hs.trans ht.symm, hs'.trans ht'.symm⟩

theorem pairBody_alike (gr ch : Fin 2) (tbl : Nat) {s t : State} (h : s.indexed = t.indexed) :
    Alike State.indexed (pairBody gr ch tbl s) (pairBody gr ch tbl t) := by
  refine Alike.of_respects (a := State.indexed) (fun u => ?_) h
  have hread : readPair u.indexed.cfg u.indexed.mdbuf tbl u.indexed.cursor =
      readPair u.cfg u.mdbuf tbl u.cursor := rfl
  unfold pairBody
  simp only [hread]
  exact storeWord_respects gr ch _ _ u

theorem quadBody_alike (gr ch : Fin 2) (sel : Bool) {s t : State} (h : s.indexed = t.indexed) :
    Alike State.indexed (quadBody gr ch sel s) (quadBody gr ch sel t) := by
  refine Alike.of_respects (a := State.indexed) (fun u => ?_) h
  have hread : readQuad u.indexed.cfg u.indexed.mdbuf sel u.indexed.cursor =
      readQuad u.cfg u.mdbuf sel u.cursor := rfl
  unfold quadBody
  simp only [hread]
  exact storeWord_respects gr ch _ _ u

/-- A decoding that goes on where the words before it did not fail. -/
theorem Alike.andThen {known : State → State} {d e : State × Bool} {k l : State → State × Bool}
    (h : Alike known d e) (hk : known d.1 = known e.1 → Alike known (k d.1) (l e.1)) :
    Alike known (if d.2 then k d.1 else d) (if e.2 then l e.1 else e) := by
  obtain ⟨hstate, hflag⟩ := h
  rw [← hflag]
  split
  · exact hk hstate
  · exact ⟨hstate, hflag⟩

theorem pairLoop_alike (gr ch : Fin 2) (g : SideBlock) (n : Nat) {s t : State} (h : s.indexed = t.indexed) :
    Alike State.indexed (pairLoop gr ch g n s) (pairLoop gr ch g n t) := by
  induction n generalizing s t with
  | zero => exact ⟨h, rfl⟩
  | succ n ih =>
    have hidx : s.idx = t.idx := (congrArg State.idx h :)
    have htable : pairTable s g s.idx.toNat = pairTable t g t.idx.toNat :=
      (congrArg (fun u => pairTable u g u.idx.toNat) h :)
    by_cases hlt : s.idx.toNat < bvEnd g
    · rw [pairLoop_succ n hlt, pairLoop_succ n (hidx ▸ hlt), htable]
      exact (pairBody_alike gr ch _ h).andThen ih
    · rw [pairLoop_done _ hlt, pairLoop_done _ (hidx ▸ hlt)]
      exact ⟨h, rfl⟩

theorem quadLoop_alike (gr ch : Fin 2) (g : SideBlock) (stop n : Nat) {s t : State} (h : s.indexed = t.indexed) :
    Alike State.indexed (quadLoop gr ch g stop n s) (quadLoop gr ch g stop n t) := by
  induction n generalizing s t with
  | zero => exact ⟨h, rfl⟩
  | succ n ih =>
    have hgo : (s.cur.toNat < stop ∧ s.idx.toNat + 4 ≤ 576) = (t.cur.toNat < stop ∧ t.idx.toNat + 4 ≤ 576) :=
      (congrArg (fun u : State => u.cur.toNat < stop ∧ u.idx.toNat + 4 ≤ 576) h :)
    by_cases hlt : s.cur.toNat < stop ∧ s.idx.toNat + 4 ≤ 576
    · rw [quadLoop_succ n hlt, quadLoop_succ n (hgo ▸ hlt)]
      exact (quadBody_alike gr ch _ h).andThen ih
    · rw [quadLoop_done _ hlt, quadLoop_done _ (hgo ▸ hlt)]
      exact ⟨h, rfl⟩

theorem specLoops_eq_andThen (gr ch : Fin 2) (g : SideBlock) (stop : Nat) (s : State) :
    specLoops gr ch g stop s =
      if (pairLoop gr ch g 288 s).2 then quadLoop gr ch g stop 144 (pairLoop gr ch g 288 s).1
      else pairLoop gr ch g 288 s := by
  unfold specLoops
  obtain ⟨t, _ | _⟩ := pairLoop gr ch g 288 s <;> rfl

theorem specBody_alike (gr ch : Fin 2) {s t : State} (h : s.scaled = t.scaled) :
    Alike State.resolved (specBody gr ch s) (specBody gr ch t) := by
  have hg : s.si.get gr ch = t.si.get gr ch := (congrArg (fun u : State => u.si.get gr ch) h :)
  have hstop : s.granuleEnd (t.si.get gr ch) = t.granuleEnd (t.si.get gr ch) :=
    (congrArg (fun u : State => u.granuleEnd (t.si.get gr ch)) h :)
  have hstart : (specStart gr ch s).indexed = (specStart gr ch t).indexed :=
    (congrArg (fun u : State => (specStart gr ch u).indexed) h :)
  have hloops : Alike State.indexed (specLoops gr ch (t.si.get gr ch) (t.granuleEnd (t.si.get gr ch)) (specStart gr ch s))
      (specLoops gr ch (t.si.get gr ch) (t.granuleEnd (t.si.get gr ch)) (specStart gr ch t)) := by
    rw [specLoops_eq_andThen, specLoops_eq_andThen]
    exact (pairLoop_alike gr ch _ 288 hstart).andThen (quadLoop_alike gr ch _ _ 144)
  obtain ⟨hstate, hflag⟩ := hloops
  unfold specBody
  simp only [hg, hstop]
  exact ⟨(congrArg (fun u : State => (specEnd gr ch (t.granuleEnd (t.si.get gr ch)) u).resolved) hstate :), hflag⟩

theorem decodeGranules_cons (gr ch : Fin 2) (l : List (Fin 2 × Fin 2)) (s : State) :
    decodeGranules ((gr, ch) :: l) s =
      if (specBody gr ch (scfBody gr ch s)).2 then decodeGranules l (specBody gr ch (scfBody gr ch s)).1
      else (specBody gr ch (scfBody gr ch s)).1 := by
  rw [decodeGranules]
  obtain ⟨t, _ | _⟩ := specBody gr ch (scfBody gr ch s) <;> rfl

theorem decodeGranules_respects (l : List (Fin 2 × Fin 2)) {s t : State} (h : s.resolved = t.resolved) :
    (decodeGranules l s).resolved = (decodeGranules l t).resolved := by
  induction l generalizing s t with
  | nil => exact h
  | cons p l ih =>
    obtain ⟨gr, ch⟩ := p
    have hscf : (scfBody gr ch s).scaled = (scfBody gr ch t).scaled := by
      rw [scfBody_respects, h, ← scfBody_respects]
    obtain ⟨hstate, hflag⟩ := specBody_alike gr ch hscf
    rw [decodeGranules_cons, decodeGranules_cons, hflag]
    split
    · exact ih hstate
    · exact hstate

/-- The decoding half of `FRAME` rests on the input and the header. -/
theorem frameDecode_respects {s t : State} (h : s.headed = t.headed) :
    (frameDecode s).resolved = (frameDecode t).resolved := by
  have hside : (zeroGranules (sideBody s)).sided = (zeroGranules (sideBody t)).sided := by
    rw [zeroGranules_sideBody_respects, h, ← zeroGranules_sideBody_respects]
  have hresv : (resvBody (zeroGranules (sideBody s))).resolved = (resvBody (zeroGranules (sideBody t))).resolved := by
    rw [resvBody_respects, hside, ← resvBody_respects]
  unfold frameDecode
  simp only
  generalize resvBody (zeroGranules (sideBody s)) = u at hresv
  generalize resvBody (zeroGranules (sideBody t)) = v at hresv
  have hmd : u.mdValid = v.mdValid := (congrArg State.mdValid hresv :)
  have hchannels : u.channels = v.channels := (congrArg State.channels hresv :)
  rw [hmd, hchannels]
  split
  · exact decodeGranules_respects _ hresv
  · exact hresv

/-! ### The container writer -/

/-- Two bodies end alike: both go on with the same known, or both stop, with the same input and output. -/
inductive Flow.Alike (known : State → State) : Flow → Flow → Prop where
  | go {s t : State} (h : known s = known t) : Flow.Alike known (.go s) (.go t)
  | halt {s t : State} (h : s.input = t.input) : Flow.Alike known (.halt s) (.halt t)

theorem Flow.Alike.bind {a b : State → State} {f g : Flow} {k l : State → Flow} (h : Flow.Alike a f g)
    (hk : ∀ s t, a s = a t → Flow.Alike b (k s) (l t)) : Flow.Alike b (f.bind k) (g.bind l) := by
  cases h with
  | go h => exact hk _ _ h
  | halt h => exact .halt h

/-- What is known holds the input and the room in a buffer, and is still known after an append to it. -/
structure Tracks (known : State → State) (b : BufId) : Prop where
  input : ∀ s, (known s).input = s.input
  full : ∀ s, (known s).full b = s.full b
  stored : ∀ v s, known (s.setBuf b ((s.buf b).append v)) =
    known ((known s).setBuf b (((known s).buf b).append v))

theorem serialised_tracks : Tracks State.serialised .plain := ⟨fun _ => rfl, fun _ => rfl, fun _ _ => rfl⟩

theorem coding_tracks_code : Tracks State.coding .code := ⟨fun _ => rfl, fun _ => rfl, fun _ _ => rfl⟩

theorem coding_tracks_obuf : Tracks State.coding .obuf := ⟨fun _ => rfl, fun _ => rfl, fun _ _ => rfl⟩

theorem Tracks.append_alike {known : State → State} {b : BufId} (T : Tracks known b) (v : Byte) {s t : State}
    (h : known s = known t) : Flow.Alike known (append b v s) (append b v t) := by
  have hfull : s.full b = t.full b := by rw [← T.full s, h, T.full t]
  have hinput : s.input = t.input := by rw [← T.input s, h, T.input t]
  rcases append_cases b v s with ⟨hs, happ⟩ | ⟨hs, happ⟩
  · rw [happ, append_of_room (hfull ▸ hs)]
    exact .go (by rw [T.stored v s, h, ← T.stored v t])
  · rw [happ, append_of_full (hfull ▸ hs)]
    exact .halt hinput

theorem Tracks.appendAll_alike {known : State → State} {b : BufId} (T : Tracks known b) (vs : List Byte)
    {s t : State} (h : known s = known t) : Flow.Alike known (appendAll b vs s) (appendAll b vs t) := by
  induction vs generalizing s t with
  | nil => exact .go h
  | cons v vs ih => exact (T.append_alike v h).bind fun _ _ => ih

theorem serBody_alike {s t : State} (h : s.resolved = t.resolved) :
    Flow.Alike State.serialised (serBody s) (serBody t) := by
  have hbytes : serBytes s = serBytes t := (congrArg serBytes h :)
  have hstart : ({ s with plain := Buffer.empty } : State).serialised =
      ({ t with plain := Buffer.empty } : State).serialised :=
    (congrArg (fun u : State => ({ u with plain := Buffer.empty } : State).serialised) h :)
  unfold serBody
  rw [hbytes]
  exact serialised_tracks.appendAll_alike _ hstart

theorem renormEnc_alike (n : Nat) {s t : State} (h : s.coding = t.coding) :
    Flow.Alike State.coding (renormEnc n s) (renormEnc n t) := by
  induction n generalizing s t with
  | zero => exact .go h
  | succ n ih =>
    have htop : s.ac.topAgree = t.ac.topAgree := (congrArg (fun u : State => u.ac.topAgree) h :)
    have hbyte : s.ac.high.extractLsb' 24 8 = t.ac.high.extractLsb' 24 8 :=
      (congrArg (fun u : State => u.ac.high.extractLsb' 24 8) h :)
    unfold renormEnc
    rw [htop, hbyte]
    split
    · refine (coding_tracks_code.append_alike _ h).bind fun u v huv => ih ?_
      exact (congrArg (fun u : State => ({ u with ac := u.ac.shift } : State).coding) huv :)
    · exact .go h

theorem encBody_alike (y : Bool) {s t : State} (h : s.coding = t.coding) :
    Flow.Alike State.coding (encBody y s) (encBody y t) := by
  refine renormEnc_alike 4 ?_
  have hadvance : ∀ u : State, ({ u with ac := u.ac.advance u.region y } : State).coding =
      ({ u.coding with ac := u.coding.ac.advance u.coding.region y } : State).coding := fun u => by
    cases y <;> rfl
  rw [hadvance s, h, ← hadvance t]

theorem encBits_alike (ys : List Bool) {s t : State} (h : s.coding = t.coding) :
    Flow.Alike State.coding (encBits ys s) (encBits ys t) := by
  induction ys generalizing s t with
  | nil => exact .go h
  | cons y ys ih => exact (encBody_alike y h).bind fun _ _ => ih

theorem flushBody_alike {s t : State} (h : s.coding = t.coding) :
    Flow.Alike State.coding (flushBody s) (flushBody t) := by
  have hlow : s.ac.low = t.ac.low := (congrArg (fun u : State => u.ac.low) h :)
  unfold flushBody
  rw [hlow]
  exact (coding_tracks_code.appendAll_alike _ h).bind fun u v huv => .go huv

/-- What `ACENC` makes of `PLAIN` rests on `PLAIN` and the coder configuration (R281, R288). -/
theorem acencBody_alike {s t : State} (h : s.serialised = t.serialised) :
    Flow.Alike State.coding (acencBody s) (acencBody t) := by
  have hbytes : s.plain.bytes = t.plain.bytes := (congrArg (fun u : State => u.plain.bytes) h :)
  have hstart : (acinitBody .encode s).coding = (acinitBody .encode t).coding :=
    (congrArg (fun u : State => (acinitBody .encode u).coding) h :)
  unfold acencBody
  rw [hbytes]
  exact (encBits_alike _ hstart).bind fun _ _ => flushBody_alike

theorem copyHeader_alike (n a : Nat) {s t : State} (h : s.coding = t.coding) :
    Flow.Alike State.coding (copyHeader n a s) (copyHeader n a t) := by
  induction n generalizing a s t with
  | zero => exact .go h
  | succ n ih =>
    have hbyte : s.ibuf.read a = t.ibuf.read a := (congrArg (fun u : State => u.ibuf.read a) h :)
    have hnote : ∀ m (u : State), (noteMissing m u).coding = u.coding := fun m u => by
      rw [noteMissing_eq]
      rfl
    unfold copyHeader
    rw [hbyte]
    refine (coding_tracks_obuf.append_alike _ ?_).bind fun _ _ => ih (a + 1)
    rw [hnote, hnote, h]

theorem emitFrame_alike {s t : State} (h : s.coding = t.coding) :
    Flow.Alike State.coding (emitFrame s) (emitFrame t) := by
  have hlen : s.code.len = t.code.len := (congrArg (fun u : State => u.code.len) h :)
  have hprefix : s.prefixLen = t.prefixLen := (congrArg State.prefixLen h :)
  have hfoff : s.foff.toNat = t.foff.toNat := (congrArg (fun u : State => u.foff.toNat) h :)
  unfold emitFrame writeFrame
  rw [hlen, hprefix, hfoff]
  split
  · exact .go h
  · refine (copyHeader_alike _ _ h).bind fun u v huv => ?_
    have hlen' : u.code.len = v.code.len := (congrArg (fun u : State => u.code.len) huv :)
    rw [hlen']
    refine (coding_tracks_obuf.appendAll_alike _ huv).bind fun u v huv => ?_
    have hbytes : u.code.bytes = v.code.bytes := (congrArg (fun u : State => u.code.bytes) huv :)
    rw [hbytes]
    exact (coding_tracks_obuf.appendAll_alike _ huv).bind fun u v huv => .go huv

theorem emitBody_alike {s t : State} (h : s.resolved = t.resolved) :
    Flow.Alike State.coding (emitBody s) (emitBody t) :=
  ((serBody_alike h).bind fun _ _ => acencBody_alike).bind fun _ _ => emitFrame_alike

/-! ### `FRAME` -/

/-- `FRAME` rests on its input, header word and all (R327). -/
theorem frameBody_alike {s t : State} (h : s.input = t.input) :
    Flow.Alike State.input (frameBody s) (frameBody t) := by
  have hmore : s.moreInput = t.moreInput := (congrArg State.moreInput h :)
  obtain ⟨hinput, hvalid, hheaded⟩ := hdrBody_respects h
  unfold frameBody
  rw [hmore]
  split
  case isFalse => exact .go h
  case isTrue =>
    generalize hdrBody s = u at hinput hvalid hheaded
    generalize hdrBody t = v at hinput hvalid hheaded
    cases hv : u.hValid with
    | false =>
      rw [frameAfterHdr_of_rejected hv, frameAfterHdr_of_rejected (hvalid ▸ hv)]
      exact .go (congrArg (fun u : State => (skipByte u).input) hinput :)
    | true =>
      have hknown := hheaded hv
      have hhdr : u.hdr = v.hdr := (congrArg State.hdr hknown :)
      by_cases hsupp : u.hdr.version = 3 ∧ u.hdr.layer = 3
      case neg =>
        rw [frameAfterHdr_of_unsupported hv hsupp, frameAfterHdr_of_unsupported (hvalid ▸ hv) (hhdr ▸ hsupp)]
        exact .go (congrArg (fun u : State => (skipFrame u).input) hknown :)
      case pos =>
        rw [frameAfterHdr_of_supported hv hsupp, frameAfterHdr_of_supported (hvalid ▸ hv) (hhdr ▸ hsupp)]
        refine (emitBody_alike (frameDecode_respects hknown)).bind fun u v huv => .go ?_
        exact (congrArg (fun u : State => (advBody u).input) huv :)

theorem Flow.Alike.input {f g : Flow} (h : Flow.Alike State.input f g) : f.state.input = g.state.input := by
  cases h with
  | go h => exact h
  | halt h => exact h

theorem exec_frame (s : State) : exec .frame s = .next (frameBody (accept s)).state := rfl

/-- Settles O47: `FRAME` rests on its input, and its output is part of what it leaves as the next input. -/
theorem frameOutputIgnoresStaleState : Obligations.FrameOutputIgnoresStaleState := by
  intro s s' t t' hibuf hfoff hring hmodel hnreg hcfg hobuf he he'
  have hinput : (accept s').input = (accept s).input := by
    unfold State.input
    simp only [accept_ibuf, accept_foff, accept_ring, accept_cfgModel, accept_cfgNreg, accept_cfg, accept_obuf,
      hibuf, hfoff, hring, hmodel, hnreg, hcfg, hobuf]
  have hleft := (frameBody_alike hinput).input
  rw [exec_frame] at he he'
  cases he
  cases he'
  exact ⟨(congrArg State.obuf hleft :), (congrArg State.foff hleft :), (congrArg State.ring hleft :)⟩

end Sys2Proof.Machine

/-! ## The container commands on their own (R321, R323, R326) -/

namespace Sys2Proof.Machine

/-! ### `SER` (R321) -/

theorem exec_ser {s : State} (h : s.hValid = true) : exec .ser s = .next (serBody (accept s)).state :=
  guarded_of_pre (i := .ser) (pre := (·.hValid)) (body := fun u => (serBody u).state) h

/-- Settles O43: with room for two bytes a sample every append of `SER` goes on. -/
theorem serSerialisesTheSamples : Obligations.SerSerialisesTheSamples := by
  intro s hvalid hchannels hroom
  have hbytes := Reference.plainStream_eq_serBytes hchannels
  have hfits : ({ accept s with plain := Buffer.empty } : State).hasRoom .plain (serBytes s).length := by
    intro c hc
    rw [← hbytes, Reference.plainStream_length]
    exact (Nat.zero_add _).le.trans (hroom c hc)
  refine ⟨Buffer.empty.appendList (serBytes s), ?_, ?_⟩
  · rw [exec_ser hvalid]
    exact (congrArg (fun f : Flow => Host.Outcome.next f.state) (appendAll_of_hasRoom (serBytes s) hfits) :)
  · rw [hbytes, Buffer.bytes_appendList]
    rfl

/-! ### `FRAME` on what it does not decode (R326) -/

theorem hdrBody_input (s : State) : (hdrBody s).input = s.input := by
  have hread : s.headerRead.input = s.input := by
    rw [State.headerRead, noteMissing_eq]
    rfl
  cases hrej : headerRejected s.headerWord with
  | true =>
    rw [hdrBody_of_rejected hrej]
    exact hread
  | false =>
    rw [hdrBody_of_accepted hrej]
    exact hread

theorem hdrBody_foff (s : State) : (hdrBody s).foff = s.foff := (congrArg State.foff (hdrBody_input s) :)

theorem hdrBody_skipped (s : State) : (hdrBody s).skipped = s.skipped :=
  hdrBody_unchanged s .skipped (by decide)

/-- Settles O45: the three ways of `FRAME` past what it cannot decode; the header is that of the rule. -/
theorem frameStepsOverWhatItCannotDecode : Obligations.FrameStepsOverWhatItCannotDecode := by
  intro s h
  have hh : h = hdrBody (accept s) := by
    rw [← reference_hdr_eq, ← accepted_eq]
  have hfoff : h.foff = s.foff := hh ▸ hdrBody_foff (accept s)
  have hskipped : h.skipped = s.skipped := hh ▸ hdrBody_skipped (accept s)
  rw [exec_frame]
  clear_value h
  refine ⟨fun hend => ?_, fun hmore hrej => ?_, fun hmore hvalid hsupp => ?_⟩
  · rw [frameBody_of_end (s := accept s) hend]
    rfl
  · rw [frameBody_of_more (s := accept s) hmore, ← hh, frameAfterHdr_of_rejected hrej, ← hfoff, ← hskipped]
    rfl
  · rw [frameBody_of_more (s := accept s) hmore, ← hh, frameAfterHdr_of_unsupported hvalid hsupp, ← hfoff,
      ← hskipped]
    rfl

/-! ### `EMIT` without limits (R323, 20_memory.md R97) -/

/-- The state after `SER` where `PLAIN` is unbounded. -/
def State.serial (s : State) : State := { s with plain := Buffer.empty.appendList (serBytes s) }

theorem serBody_unbounded {s : State} (h : s.cap .plain = none) : serBody s = .go s.serial := by
  have hcap : ({ s with plain := Buffer.empty } : State).cap .plain = none := h
  exact appendAll_unbounded hcap (serBytes s)

/-- The state after `ACENC` where `CODE` is unbounded. -/
def State.flushed (s : State) : State :=
  { s.coded with code := s.coded.code.appendList (wordBytes s.coded.ac.low), acMode := .idle }

/-- Decisions change the coder and `CODE` only (R286). -/
theorem foldl_encoded_eq (ys : List Bool) (s : State) :
    ys.foldl State.encoded s =
      { s with ac := (ys.foldl State.encoded s).ac, code := (ys.foldl State.encoded s).code } := by
  induction ys generalizing s with
  | nil => rfl
  | cons y ys ih => exact ih (s.encoded y)

theorem State.flushed_eq (s : State) :
    s.flushed = { s with ac := s.flushed.ac, code := s.flushed.code, acMode := .idle } :=
  (congrArg (fun u : State => { u with code := s.flushed.code, acMode := .idle })
    (foldl_encoded_eq (decisions s.plain.bytes) (acinitBody .encode s)) :)

/-- A missing bit may be noted before or after a buffer is replaced. -/
theorem noteMissing_setBuf (m : Option Nat) (s : State) (i : BufId) (b : Buffer) :
    noteMissing m (s.setBuf i b) = (noteMissing m s).setBuf i b := by
  cases m <;> cases i <;> rfl

theorem noteMissing_cap (m : Option Nat) (s : State) (i : BufId) : (noteMissing m s).cap i = s.cap i := by
  cases m <;> rfl

theorem copyHeader_unbounded (n a : Nat) {s : State} (h : s.cap .obuf = none) :
    copyHeader n a s =
      .go ((noteMissing (copyMissing s.ibuf a (a + n)) s).setBuf .obuf (s.obuf.appendList (s.ibuf.slice a n))) := by
  induction n generalizing a s with
  | zero =>
    have hnone : copyMissing s.ibuf a (a + 0) = none := if_neg fun hlt => Nat.lt_irrefl a hlt.1
    rw [hnone]
    rfl
  | succ n ih =>
    have hcap : (noteMissing (copyMissing s.ibuf a (a + 1)) s).cap .obuf = none := by
      rw [noteMissing_cap, h]
    have hibuf : ∀ b, ((noteMissing (copyMissing s.ibuf a (a + 1)) s).setBuf .obuf b).ibuf = s.ibuf :=
      fun _ => noteMissing_ibuf _ _
    rw [copyHeader, append_unbounded hcap, Flow.bind_go, ih (a + 1) (by rw [setBuf_cap, hcap]), hibuf,
      noteMissing_setBuf, setBuf_setBuf, copyMissing_succ s.ibuf a n, noteMissing_or, slice_succ,
      Buffer.appendList_cons, noteMissing_buf]
    rfl

/-- The container frame is header and side information, the payload length, the payload (30_encoding.md R130). -/
theorem containerFrame_eq (s : State) :
    Reference.containerFrame s s.code.bytes =
      s.ibuf.slice s.foff.toNat s.prefixLen ++ halfBytes (BitVec.ofNat 16 s.code.len) ++ s.code.bytes := by
  rw [← Reference.halfBytes_eq, Reference.containerFrame, Buffer.bytes_length]
  rfl

/-- The state after the container writer where `OBUF` is unbounded. -/
def State.framed (s : State) : State :=
  { noteMissing (copyMissing s.ibuf s.foff.toNat (s.foff.toNat + s.prefixLen)) s with
    obuf := s.obuf.appendList (Reference.containerFrame s s.code.bytes)
    frames := s.frames + 1 }

theorem writeFrame_unbounded {s : State} (h : s.cap .obuf = none) : writeFrame s = .go s.framed := by
  have hcap : ∀ b, ((noteMissing (copyMissing s.ibuf s.foff.toNat (s.foff.toNat + s.prefixLen)) s).setBuf .obuf b).cap
      .obuf = none := fun b => by rw [setBuf_cap, noteMissing_cap, h]
  rw [writeFrame, copyHeader_unbounded _ _ h, Flow.bind_go, appendAll_unbounded (hcap _), Flow.bind_go,
    setBuf_setBuf, appendAll_unbounded (hcap _), Flow.bind_go, setBuf_setBuf, State.framed, containerFrame_eq,
    Buffer.appendList_append, Buffer.appendList_append]
  simp only [setBuf_buf, if_true]
  cases copyMissing s.ibuf s.foff.toNat (s.foff.toNat + s.prefixLen) <;> rfl

/-- The state after `EMIT` where no buffer is bounded. -/
def State.emitted (s : State) : State :=
  if 65535 < s.serial.flushed.code.len then raise .payloadOverflow s.foff.toNat s.serial.flushed
  else s.serial.flushed.framed

theorem emitBody_unbounded {s : State} (h : s.unbounded) : emitBody s = .go s.emitted := by
  obtain ⟨hplain, hcode, hobuf⟩ := h
  have hfoff : s.serial.flushed.foff = s.foff := by rw [State.flushed_eq]; rfl
  have hcap : s.serial.flushed.cfg.obufCap = none := by rw [State.flushed_eq]; exact hobuf
  have hacenc : acencBody s.serial = .go s.serial.flushed := acencBody_unbounded (s := s.serial) hcode
  rw [emitBody, serBody_unbounded hplain, Flow.bind_go, hacenc, Flow.bind_go, emitFrame, State.emitted,
    apply_ite Flow.go, hfoff, writeFrame_unbounded hcap]

/-- After the payload is made, `EMIT` writes `OBUF`, the counter and the error registers. -/
theorem State.emitted_frame (s : State) :
    s.emitted =
      { s.serial.flushed with
        obuf := s.emitted.obuf
        frames := s.emitted.frames
        err := s.emitted.err
        lastErr := s.emitted.lastErr
        errInfo := s.emitted.errInfo } := by
  unfold State.emitted
  split
  · rfl
  · unfold State.framed
    rw [noteMissing_eq]

/-- What `EMIT` leaves unchanged, and what it writes without a choice. -/
theorem State.emitted_eq (s : State) :
    s.emitted =
      { s with
        plain := s.serial.plain
        code := s.serial.flushed.code
        ac := s.serial.flushed.ac
        acMode := .idle
        obuf := s.emitted.obuf
        frames := s.emitted.frames
        err := s.emitted.err
        lastErr := s.emitted.lastErr
        errInfo := s.emitted.errInfo } :=
  s.emitted_frame.trans
    (congrArg
      (fun u : State =>
        { u with
          obuf := s.emitted.obuf
          frames := s.emitted.frames
          err := s.emitted.err
          lastErr := s.emitted.lastErr
          errInfo := s.emitted.errInfo })
      s.serial.flushed_eq :)

end Sys2Proof.Machine

/-! ## What the container commands leave, and `EMIT` (R321, R323, R326, R328) -/

namespace Sys2Proof.Machine

/-! ### Frames (the rules' "Writes" lines) -/

theorem Buffer.Begins.of_sameBytes {b b' : Buffer} (h : sameBytes b b') : b.Begins b' := by
  obtain ⟨hlen, hread⟩ := h
  exact ⟨hlen.ge, fun a _ => hread a⟩

/-- A body that does not write `OBUF` keeps what it begins with. -/
theorem obuf_begins_of_unchanged {l : List Part} {s t : State} (h : unchangedBut l s t) (hl : Part.obuf ∉ l) :
    s.obuf.Begins t.obuf :=
  .of_sameBytes (h .obuf hl)

theorem writeFrame_begins (s : State) : s.obuf.Begins (writeFrame s).state.obuf := by
  refine writeFrame_keeps (P := fun u => s.obuf.Begins u.obuf) s (.refl _) (fun m u hu => ?_) (fun _ _ hu => hu)
    (fun v u hu => hu.trans (Buffer.begins_append _ v)) (fun _ hu => hu)
  rw [noteMissing_eq]
  exact hu

theorem emitFrame_begins (s : State) : s.obuf.Begins (emitFrame s).state.obuf := by
  unfold emitFrame
  split
  case isTrue => exact .refl _
  case isFalse => exact writeFrame_begins s

/-- `EMIT` only appends to `OBUF`: its first two steps do not write it. -/
theorem emitBody_begins (s : State) : s.obuf.Begins (emitBody s).state.obuf := by
  have hser : s.obuf.Begins (serBody s).state.obuf := obuf_begins_of_unchanged (serBody_unchanged s) (by decide)
  have hacenc : s.obuf.Begins ((serBody s).bind acencBody).state.obuf :=
    Flow.state_bind (P := fun u => s.obuf.Begins u.obuf) hser (fun _ hu => hu) fun u hu =>
      hu.trans (obuf_begins_of_unchanged (acencBody_unchanged u) (by decide))
  exact Flow.state_bind (P := fun u => s.obuf.Begins u.obuf) hacenc (fun _ hu => hu) fun u hu =>
    hu.trans (emitFrame_begins u)

theorem frameAfterHdr_begins (s : State) : s.obuf.Begins (frameAfterHdr s).state.obuf := by
  unfold frameAfterHdr
  split
  case isTrue => exact Buffer.Begins.refl s.obuf
  case isFalse =>
    split
    case isTrue => exact Buffer.Begins.refl s.obuf
    case isFalse =>
      have hdecode : s.obuf.Begins (frameDecode s).obuf := obuf_begins_of_unchanged (frameDecode_unchanged s) (by decide)
      have hemit : s.obuf.Begins (emitBody (frameDecode s)).state.obuf := hdecode.trans (emitBody_begins _)
      exact Flow.state_bind (f := emitBody (frameDecode s)) (k := fun u => .go (advBody u))
        (P := fun u => s.obuf.Begins u.obuf) (Q := fun u => s.obuf.Begins u.obuf) hemit (fun _ hu => hu) fun _ hu => hu

theorem frameBody_begins (s : State) : s.obuf.Begins (frameBody s).state.obuf := by
  unfold frameBody
  split
  case isTrue =>
    have hhdr : s.obuf.Begins (hdrBody s).obuf := obuf_begins_of_unchanged (hdrBody_unchanged s) (by decide)
    exact hhdr.trans (frameAfterHdr_begins _)
  case isFalse => exact .refl _

theorem exec_emit_begins {s t : State} (he : exec .emit s = .next t) : s.obuf.Begins t.obuf := by
  rcases guarded_cases (i := .emit) (pre := emitPre) (body := fun u => (emitBody u).state) he with
    ⟨-, rfl⟩ | ⟨-, rfl⟩
  · exact emitBody_begins (accept s)
  · exact .refl _

theorem exec_emit_unchanged {s t : State} (he : exec .emit s = .next t) : unchangedBut (writes .emit) s t :=
  guarded_unchanged (i := .emit) (pre := emitPre) (body := fun u => (emitBody u).state) he emitBody_unchanged (by decide)

/-- `RUN` goes from one `FRAME` to the next, so it keeps what `FRAME`, `SINIT` and its two ends keep. -/
theorem exec_run_unchanged {s t : State} (he : exec .run s = .next t) : unchangedBut (writes .run) s t := by
  have hstart : unchangedBut Part.ofFrame s (sinitBody (accept s)) :=
    unchangedBut_of_accept (sinitBody_unchanged (accept s)) (by decide)
  have hend : ∀ u v : State, unchangedBut Part.errors u v → unchangedBut Part.ofFrame u { v with done := true } :=
    fun u v huv => unchangedBut_trans (unchangedBut_mono huv (by decide)) (unchangedBut_mono (done_unchanged v) (by decide))
  change runBody (sinitBody (accept s)) = .next t at he
  unfold runBody at he
  split at he
  case isTrue =>
    cases he
    exact unchangedBut_trans hstart (hend _ _ (raise_unchanged _ _ _))
  case isFalse =>
    refine runLoop_keeps _ _ t hstart he (fun u hu => unchangedBut_trans hu (frameBody_unchanged u)) fun u hu => ?_
    refine unchangedBut_trans hu (hend _ _ ?_)
    split
    case isTrue => exact raise_unchanged _ _ _
    case isFalse => exact unchangedBut_refl _ _

/-- Settles O52. -/
theorem containerFrames : Obligations.ContainerFrames := by
  intro s t
  refine ⟨fun he => ?_, fun he => ?_, fun he => ?_, exec_run_unchanged⟩
  · exact guarded_unchanged (i := .ser) (pre := (·.hValid)) (body := fun u => (serBody u).state) he serBody_unchanged
      (by decide)
  · obtain ⟨hlen, hread⟩ := exec_emit_begins he
    exact ⟨exec_emit_unchanged he, hlen, hread⟩
  · have hbegins : s.obuf.Begins t.obuf := by
      rw [exec_frame] at he
      cases he
      exact frameBody_begins (accept s)
    obtain ⟨hlen, hread⟩ := hbegins
    exact ⟨always_unchanged (body := fun u => (frameBody u).state) he frameBody_unchanged (by decide), hlen, hread⟩

/-! ### `EMIT` (R323) -/

theorem exec_emit {s : State} (h : s.hValid = true) (hside : s.siValid = true) :
    exec .emit s = .next (emitBody (accept s)).state := by
  have hpre : emitPre (accept s) = true := by
    rw [emitPre, Bool.and_eq_true]
    exact ⟨h, hside⟩
  exact guarded_of_pre (i := .emit) (pre := emitPre) (body := fun u => (emitBody u).state) hpre

theorem Flow.Alike.of_go {known : State → State} {s t : State} (h : Flow.Alike known (.go s) (.go t)) :
    known s = known t := by
  cases h
  assumption

/-- Without limits `CODE` is the coding of `PLAIN`, whatever the rest of the state holds (R288). -/
theorem flushed_code_eq {s t : State} (hs : s.cap .code = none) (h : s.serialised = t.serialised) :
    s.flushed.code = (Reference.acenc t).state.code := by
  have ht : t.cap .code = none := (congrArg (fun u : State => u.cap .code) h).symm.trans hs
  have hs' : acencBody s = .go s.flushed := acencBody_unbounded hs
  have ht' : acencBody t = .go t.flushed := acencBody_unbounded ht
  have hcode := acencBody_alike h
  rw [hs', ht'] at hcode
  rw [Reference.acenc_eq, ht']
  exact (congrArg State.code hcode.of_go :)

theorem serial_plain_bytes {s : State} (h : s.hdr.channels = 1 ∨ s.hdr.channels = 2) :
    s.serial.plain.bytes = Reference.plainStream s.samp s.hdr.channels.toNat := by
  rw [Reference.plainStream_eq_serBytes h]
  exact Buffer.bytes_appendList _ _

theorem emitted_code_eq {s : State} (h : s.unbounded) :
    s.emitted.code = (Reference.acenc { s with plain := s.serial.plain }).state.code := by
  rw [s.emitted_eq]
  exact flushed_code_eq (s := s.serial) h.2.1 rfl

/-- A payload that fits the length field: one container frame more (30_encoding.md R130). -/
theorem emitted_of_fits {s : State} (h : s.emitted.code.len ≤ 65535) :
    s.emitted.obuf.bytes = s.obuf.bytes ++ Reference.containerFrame s s.emitted.code.bytes ∧
      s.emitted.frames = s.frames + 1 := by
  have hcode : s.emitted.code = s.serial.flushed.code := (congrArg State.code s.emitted_eq :)
  have hframed : s.emitted = s.serial.flushed.framed := if_neg (by rw [← hcode]; exact Nat.not_lt.mpr h)
  rw [hcode, hframed, State.framed, s.serial.flushed_eq]
  exact ⟨Buffer.bytes_appendList _ _, rfl⟩

/-- A payload that does not fit: nothing appended, `PayloadOverflow` recorded (60_exceptions.md R363). -/
theorem emitted_of_overflow {s : State} (h : 65535 < s.emitted.code.len) :
    s.emitted.obuf = s.obuf ∧ s.emitted.frames = s.frames ∧
      s.emitted.lastErr = (raise .payloadOverflow s.foff.toNat s).lastErr ∧
      s.emitted.errInfo = (raise .payloadOverflow s.foff.toNat s).errInfo := by
  have hcode : s.emitted.code = s.serial.flushed.code := (congrArg State.code s.emitted_eq :)
  have hraised : s.emitted = raise .payloadOverflow s.foff.toNat s.serial.flushed := if_pos (by rw [← hcode]; exact h)
  rw [hraised, s.serial.flushed_eq]
  exact ⟨rfl, rfl, rfl, rfl⟩

/-- Settles O44: the body is the rule's; without limits its closed form gives the frame clause by clause. -/
theorem emitAppendsOneContainerFrame : Obligations.EmitAppendsOneContainerFrame := by
  intro s hvalid hside hchannels
  have hexec := exec_emit hvalid hside
  refine ⟨?_, fun hunbounded => ?_⟩
  · rw [hexec, accepted_eq, Reference.emit_eq (s := accept s) hchannels]
  · have hbody : emitBody (accept s) = .go (accept s).emitted := emitBody_unbounded hunbounded
    rw [hbody] at hexec
    have heq := (accept s).emitted_eq
    have hplain : (accept s).emitted.plain = (accept s).serial.plain := (congrArg State.plain heq :)
    have hmode : (accept s).emitted.acMode = .idle := (congrArg State.acMode heq :)
    have hcode : (accept s).emitted.code =
        (Reference.acenc { s with plain := (accept s).serial.plain }).state.code := by
      rw [congrArg State.code heq]
      exact flushed_code_eq hunbounded.2.1 rfl
    have hfits := emitted_of_fits (s := accept s)
    have hoverflow := emitted_of_overflow (s := accept s)
    have hunchanged := exec_emit_unchanged hexec
    generalize (accept s).emitted = t at *
    refine ⟨t, (accept s).serial.plain, hexec, serial_plain_bytes (s := accept s) hchannels, hplain, hcode, hmode,
      hfits, fun hlen => ?_, hunchanged⟩
    obtain ⟨hobuf, hframes, hlast, hinfo⟩ := hoverflow hlen
    exact ⟨hobuf, hframes, hlast, hinfo.trans (BitVec.ofNat_toNat 32 s.foff)⟩

end Sys2Proof.Machine

/-! ## `FRAME` on a supported frame (R326) -/

namespace Sys2Proof.Machine

/-! ### What decoding keeps -/

theorem State.input_eq_of_headed {s t : State} (h : s.headed = t.headed) : s.input = t.input :=
  (congrArg State.input h :)

/-- A property that the decoding half of `FRAME` keeps: its conditions keep it, and what it says is about the
input, the header, the output and the last error only. -/
structure KeptByDecode (P : State → Prop) : Prop where
  note : ∀ m s, P s → P (noteMissing m s)
  noReservoir : ∀ n s, P s → P (raise .reservoirInconsistency n s)
  noWord : ∀ n s, P s → P (raise .huffmanDecodeFailure n s)
  other : ∀ s t : State, t.headed = s.headed → t.lastErr = s.lastErr → P s → P t

section Decode

variable {P : State → Prop} (K : KeptByDecode P)
include K

theorem KeptByDecode.side {s : State} (h : P s) : P (zeroGranules (sideBody s)) :=
  K.other (sideBody s) _ rfl rfl (K.note _ _ (K.other s _ rfl rfl h))

theorem KeptByDecode.copies (b : Buffer) (parts : List (Nat × Nat)) {s : State} (h : P s) :
    P (noteCopies b parts s) := by
  induction parts generalizing s with
  | nil => exact h
  | cons p parts ih =>
    rw [noteCopies_cons]
    exact ih (K.note _ _ h)

theorem KeptByDecode.resv {s : State} (h : P s) : P (resvBody s) := by
  have hown : P s.ownCopied := K.note _ _ h
  by_cases hmdb : s.mdb = 0
  case pos =>
    rw [resvBody_of_mdb_zero hmdb]
    exact K.other s.ownCopied _ rfl rfl hown
  case neg =>
    rw [resvBody_of_mdb_ne_zero hmdb]
    cases s.walk with
    | none => exact K.other (raise .reservoirInconsistency s.foff.toNat s.ownCopied) _ rfl rfl (K.noReservoir _ _ hown)
    | some found => exact K.other (noteCopies s.ibuf found.2 s.ownCopied) _ rfl rfl (K.copies _ _ hown)

theorem KeptByDecode.scf (gr ch : Fin 2) {s : State} (h : P s) : P (scfBody gr ch s) :=
  K.note _ _ (K.other s _ rfl rfl h)

theorem KeptByDecode.word (gr ch : Fin 2) (vs : Option (List Int)) (c : Cursor) {s : State} (h : P s) :
    P (storeWord gr ch vs c s).1 := by
  cases vs with
  | none => exact K.noWord _ _ (K.note _ _ h)
  | some vs => exact K.note _ _ (K.other s _ rfl rfl h)

theorem KeptByDecode.spec (gr ch : Fin 2) {s : State} (h : P s) : P (specBody gr ch s).1 := by
  have hloops : P (specLoops gr ch (s.si.get gr ch) (s.granuleEnd (s.si.get gr ch)) (specStart gr ch s)).1 :=
    specLoops_keeps gr ch _ _ _ (K.other s _ rfl rfl h) (fun _ _ _ hu => K.word gr ch _ _ hu)
      (fun _ _ _ hu => K.word gr ch _ _ hu)
  exact K.other (specLoops gr ch (s.si.get gr ch) (s.granuleEnd (s.si.get gr ch)) (specStart gr ch s)).1 _ rfl rfl
    hloops

theorem KeptByDecode.frame {s : State} (h : P s) : P (frameDecode s) := by
  have hresv : P (resvBody (zeroGranules (sideBody s))) := K.resv (K.side h)
  unfold frameDecode
  simp only
  split
  case isTrue =>
    exact decodeGranules_keeps _ _ hresv (fun p _ _ hu => K.scf p.1 p.2 hu) (fun p _ _ hu => K.spec p.1 p.2 hu)
  case isFalse => exact hresv

end Decode

theorem keptByDecode_headed (s : State) : KeptByDecode fun u => u.headed = s.headed where
  note m u hu := (congrArg State.headed (noteMissing_sided m u) :).trans hu
  noReservoir _ _ hu := hu
  noWord _ _ hu := hu
  other _ _ heq _ hu := heq.trans hu

/-- Decoding keeps the input, the header and the output. -/
theorem frameDecode_headed (s : State) : (frameDecode s).headed = s.headed :=
  (keptByDecode_headed s).frame rfl

/-! ### The composition -/

/-- Without limits a supported frame is decoded, emitted and stepped over. -/
theorem frameBody_of_supported {s : State} (hmore : s.foff.toNat + 4 < s.ibuf.len) (hvalid : (hdrBody s).hValid = true)
    (hsupp : (hdrBody s).hdr.version = 3 ∧ (hdrBody s).hdr.layer = 3) (hunbounded : (frameDecode (hdrBody s)).unbounded) :
    frameBody s = .go (advBody (frameDecode (hdrBody s)).emitted) := by
  rw [frameBody_of_more hmore, frameAfterHdr_of_supported hvalid hsupp, emitBody_unbounded hunbounded, Flow.bind_go]

theorem frameDecode_counters (s : State) :
    (frameDecode s).frames = s.frames ∧ (frameDecode s).skipped = s.skipped ∧ (frameDecode s).done = s.done :=
  have hdecode := frameDecode_unchanged s
  ⟨hdecode .frames (by decide), hdecode .skipped (by decide), hdecode .done (by decide)⟩

theorem hdrBody_counters (s : State) :
    (hdrBody s).frames = s.frames ∧ (hdrBody s).skipped = s.skipped ∧ (hdrBody s).done = s.done :=
  have hhdr := hdrBody_unchanged s
  ⟨hhdr .frames (by decide), hhdr .skipped (by decide), hhdr .done (by decide)⟩

/-- What the frame's decoding keeps of the state `FRAME` starts from. -/
theorem frameDecode_hdrBody_keeps (s : State) :
    (frameDecode (hdrBody s)).input = s.input ∧ (frameDecode (hdrBody s)).frames = s.frames ∧
      (frameDecode (hdrBody s)).skipped = s.skipped ∧ (frameDecode (hdrBody s)).done = s.done := by
  have hinput := State.input_eq_of_headed (frameDecode_headed (hdrBody s))
  obtain ⟨hframes, hskipped, hdone⟩ := frameDecode_counters (hdrBody s)
  obtain ⟨hframes', hskipped', hdone'⟩ := hdrBody_counters s
  exact ⟨hinput.trans (hdrBody_input s), hframes.trans hframes', hskipped.trans hskipped', hdone.trans hdone'⟩

/-- Settles O46: `FRAME` is the rule's composition, and each sub-step's closed form gives its share of the result. -/
theorem frameEmitsASupportedFrame : Obligations.FrameEmitsASupportedFrame := by
  refine ⟨fun s => by rw [exec_frame, accepted_eq, Reference.frame_eq], fun s => ?_⟩
  intro h d e hmore hvalid hversion hlayer hunbounded
  have hh : h = hdrBody (accept s) := by
    rw [← reference_hdr_eq, ← accepted_eq]
  have hd : d = Reference.decodeFrame h := rfl
  have he : e = (Reference.emit d).state := rfl
  clear_value e d h
  have hchannels : h.hdr.channels = 1 ∨ h.hdr.channels = 2 := by
    rw [hh] at hvalid ⊢
    exact Reference.hdrBody_channels hvalid
  rw [Reference.decodeFrame_eq hchannels] at hd
  have hheaded : d.headed = h.headed := by rw [hd, frameDecode_headed]
  have hhdr : d.hdr = h.hdr := (congrArg State.hdr hheaded :)
  obtain ⟨hinput, hframes, hskipped, hdone⟩ := frameDecode_hdrBody_keeps (accept s)
  rw [← hh, ← hd] at hinput hframes hskipped hdone
  have hdunbounded : d.unbounded := by
    have hcfg : d.cfg = s.cfg := (congrArg State.cfg hinput :)
    rw [State.unbounded, hcfg]
    exact hunbounded
  rw [Reference.emit_eq (by rw [hhdr]; exact hchannels), emitBody_unbounded hdunbounded] at he
  have hexec : exec .frame s = .next (advBody d.emitted) := by
    have hbody := frameBody_of_supported (s := accept s) hmore (by rw [← hh]; exact hvalid)
      (by rw [← hh]; exact ⟨hversion, hlayer⟩) (by rw [← hh, ← hd]; exact hdunbounded)
    rw [exec_frame, hbody, ← hh, ← hd]
    rfl
  have heq := d.emitted_eq
  have hcode := emitted_code_eq hdunbounded
  have hbytes := serial_plain_bytes (s := d) (by rw [hhdr]; exact hchannels)
  have hfits := emitted_of_fits (s := d)
  have hoverflow := emitted_of_overflow (s := d)
  generalize d.emitted = u at *
  have hplain : u.plain = d.serial.plain := (congrArg State.plain heq :)
  have hfoff : u.foff = s.foff := (congrArg State.foff heq :).trans (congrArg State.foff hinput :)
  have hring : u.ring = s.ring := (congrArg State.ring heq :).trans (congrArg State.ring hinput :)
  have huhdr : u.hdr = h.hdr := (congrArg State.hdr heq :).trans hhdr
  have hobuf : d.obuf = s.obuf := (congrArg State.obuf hinput :)
  rw [← hplain] at hcode hbytes
  refine ⟨advBody u, hexec, (congrArg State.samp heq :), (congrArg State.si heq :), hhdr ▸ hbytes, hcode,
    fun hlen => ?_, fun hlen => ?_, he ▸ rfl, he ▸ rfl, he ▸ rfl, huhdr, ?_, ?_, rfl, rfl, rfl,
    (congrArg State.skipped heq :).trans hskipped, (congrArg State.done heq :).trans hdone⟩
  · obtain ⟨hout, hcount⟩ := hfits hlen
    have hframe : Reference.containerFrame d u.code.bytes = Reference.containerFrame h u.code.bytes :=
      (congrArg (Reference.containerFrame · u.code.bytes) hheaded :)
    rw [hobuf, hframe] at hout
    rw [hframes] at hcount
    exact ⟨hout, hcount⟩
  · obtain ⟨hout, hcount, -, -⟩ := hoverflow hlen
    exact ⟨hout.trans hobuf, hcount.trans hframes⟩
  · rw [← huhdr, ← hfoff]
    rfl
  · rw [← huhdr, ← hring]
    rfl

end Sys2Proof.Machine

/-! ## `RUN` (R328) -/

namespace Sys2Proof.Machine

/-! ### Every `FRAME` moves on -/

/-- An accepted header has a frame size the tables allow. -/
theorem hdrBody_frameSize {s : State} (hsizes : frameSizesPositive s.cfg) (h : (hdrBody s).hValid = true) :
    1 ≤ (hdrBody s).hdr.frameSize.toNat ∧ (hdrBody s).hdr.frameSize.toNat ≤ 2881 := by
  cases hrej : headerRejected s.headerWord with
  | true =>
    rw [hdrBody_of_rejected hrej, raise_hValid, State.headerRead, noteMissing_hValid, clearValid_hValid] at h
    cases h
  | false =>
    have hcfg : s.headerRead.cfg = s.cfg := by
      rw [State.headerRead, noteMissing_eq]
      rfl
    rw [hdrBody_of_accepted hrej, hcfg]
    exact hsizes _ hrej

/-- `EMIT` leaves the position and the header. -/
theorem emitBody_foff_hdr {s t : State} (h : emitBody s = .go t) : t.foff = s.foff ∧ t.hdr = s.hdr := by
  have hkept := emitBody_unchanged s
  rw [h] at hkept
  exact ⟨hkept .foff (by decide), hkept .hdr (by decide)⟩

/-- A `FRAME` that goes on from more input steps over a byte or over a frame (R326). -/
theorem frameBody_steps {s t : State} (hmore : s.foff.toNat + 4 < s.ibuf.len) (hsizes : frameSizesPositive s.cfg)
    (h : frameBody s = .go t) : ∃ n : BitVec 28, t.foff = s.foff + n ∧ 1 ≤ n.toNat ∧ n.toNat ≤ 2881 := by
  rw [frameBody_of_more hmore] at h
  have hsize := hdrBody_frameSize hsizes
  have hfoff := hdrBody_foff s
  generalize hdrBody s = u at h hsize hfoff
  cases hvalid : u.hValid with
  | false =>
    rw [frameAfterHdr_of_rejected hvalid] at h
    cases h
    exact ⟨1, congrArg (· + 1) hfoff, by decide, by decide⟩
  | true =>
    obtain ⟨hpos, hle⟩ := hsize hvalid
    have hwide : (u.hdr.frameSize.setWidth 28).toNat = u.hdr.frameSize.toNat :=
      BitVec.toNat_setWidth_of_le (by decide)
    refine ⟨u.hdr.frameSize.setWidth 28, ?_, by rw [hwide]; exact hpos, by rw [hwide]; exact hle⟩
    by_cases hsupp : u.hdr.version = 3 ∧ u.hdr.layer = 3
    case neg =>
      rw [frameAfterHdr_of_unsupported hvalid hsupp] at h
      cases h
      exact congrArg (· + u.hdr.frameSize.setWidth 28) hfoff
    case pos =>
      rw [frameAfterHdr_of_supported hvalid hsupp] at h
      have hheaded := frameDecode_headed u
      generalize frameDecode u = d at h hheaded
      cases hemit : emitBody d with
      | halt v =>
        rw [hemit] at h
        cases h
      | go v =>
        rw [hemit, Flow.bind_go] at h
        cases h
        obtain ⟨hvfoff, hvhdr⟩ := emitBody_foff_hdr hemit
        have hdhdr : d.hdr = u.hdr := (congrArg State.hdr hheaded :)
        have hdfoff : d.foff = u.foff := (congrArg State.foff hheaded :)
        rw [← hfoff, ← hdfoff, ← hvfoff, ← hdhdr, ← hvhdr]
        rfl

/-- Below the host's bound on the input the position does not wrap (10_state.md R31). -/
theorem frameBody_advances {s t : State} (hmore : s.foff.toNat + 4 < s.ibuf.len) (hfits : s.inputFits)
    (hsizes : frameSizesPositive s.cfg) (h : frameBody s = .go t) : s.foff.toNat < t.foff.toNat := by
  obtain ⟨n, hfoff, hpos, hle⟩ := frameBody_steps hmore hsizes h
  have hlen : s.ibuf.len ≤ 2 ^ 28 - 2 ^ 12 := hfits
  rw [hfoff, BitVec.toNat_add, Nat.mod_eq_of_lt (by omega)]
  omega

/-- `FRAME` leaves the input's length and the tables. -/
theorem frameBody_keeps_input {s t : State} (h : frameBody s = .go t) : t.ibuf.len = s.ibuf.len ∧ t.cfg = s.cfg := by
  have hkept := frameBody_unchanged s
  rw [h] at hkept
  obtain ⟨hlen, -⟩ : sameBytes s.ibuf t.ibuf := hkept .ibuf (by decide)
  exact ⟨hlen, hkept .cfg (by decide)⟩

theorem runLoop_of_end {s : State} (n : Nat) (h : ¬ s.foff.toNat + 4 < s.ibuf.len) :
    runLoop n s = .next (runEnd s) := by
  have hmore : ¬ s.moreInput = true := by simpa [State.moreInput] using h
  cases n with
  | zero => exact if_neg hmore
  | succ n => exact if_neg hmore

theorem runLoop_of_go {s t : State} (n : Nat) (hmore : s.foff.toNat + 4 < s.ibuf.len) (h : frameBody s = .go t) :
    runLoop (n + 1) s = runLoop n t := by
  refine (if_pos (decide_eq_true hmore)).trans ?_
  rw [h]

theorem runLoop_of_halt {s t : State} (n : Nat) (hmore : s.foff.toNat + 4 < s.ibuf.len) (h : frameBody s = .halt t) :
    runLoop (n + 1) s = .next t := by
  refine (if_pos (decide_eq_true hmore)).trans ?_
  rw [h]

theorem runTurn_of_go {s t : State} (hmore : s.foff.toNat + 4 < s.ibuf.len) (h : frameBody s = .go t) :
    Reference.runTurn s = .again t := by
  rw [← Reference.frame_eq] at h
  refine (if_pos hmore).trans ?_
  rw [h]

theorem runTurn_of_halt {s t : State} (hmore : s.foff.toNat + 4 < s.ibuf.len) (h : frameBody s = .halt t) :
    Reference.runTurn s = .stop t := by
  rw [← Reference.frame_eq] at h
  refine (if_pos hmore).trans ?_
  rw [h]

/-- With a frame for every byte left, the loop ends, and with what the rule's loop leaves. -/
theorem runLoop_ends (n : Nat) {s : State} (hfits : s.inputFits) (hsizes : frameSizesPositive s.cfg)
    (hn : s.ibuf.len ≤ n + s.foff.toNat) :
    ∃ t, runLoop n s = .next t ∧ Reference.loopGives Reference.runTurn Reference.runEnd s t := by
  induction n generalizing s with
  | zero =>
    have hend : ¬ s.foff.toNat + 4 < s.ibuf.len := by omega
    exact ⟨runEnd s, runLoop_of_end 0 hend, Reference.loopGives_leave (if_neg hend)⟩
  | succ n ih =>
    by_cases hmore : s.foff.toNat + 4 < s.ibuf.len
    case neg => exact ⟨runEnd s, runLoop_of_end _ hmore, Reference.loopGives_leave (if_neg hmore)⟩
    case pos =>
      cases hframe : frameBody s with
      | halt t => exact ⟨t, runLoop_of_halt n hmore hframe, Reference.loopGives_stop (runTurn_of_halt hmore hframe)⟩
      | go u =>
        obtain ⟨hlen, hcfg⟩ := frameBody_keeps_input hframe
        have hadvance := frameBody_advances hmore hfits hsizes hframe
        obtain ⟨t, hrun, hgives⟩ := ih (s := u) (by rw [State.inputFits, hlen]; exact hfits) (by rw [hcfg]; exact hsizes)
          (by omega)
        exact ⟨t, (runLoop_of_go n hmore hframe).trans hrun,
          Reference.loopGives_again (runTurn_of_go hmore hframe) hgives⟩

/-- What every `FRAME` keeps, holds where the loop leaves its end, if no `FRAME` stops (R328). -/
theorem runLoop_leaves {P : State → Prop} (hP : ∀ u, P u → ∃ t, frameBody u = .go t ∧ P t) (n : Nat) {s t : State}
    (h : P s) (hrun : runLoop n s = .next t) : ∃ v, P v ∧ v.ibuf.len ≤ v.foff.toNat + 4 ∧ t = runEnd v := by
  induction n generalizing s with
  | zero =>
    by_cases hmore : s.foff.toNat + 4 < s.ibuf.len
    case pos =>
      have hstuck : runLoop 0 s = .fault .runLoopBound := if_pos (decide_eq_true hmore)
      rw [hstuck] at hrun
      cases hrun
    case neg =>
      rw [runLoop_of_end 0 hmore] at hrun
      cases hrun
      exact ⟨s, h, Nat.not_lt.mp hmore, rfl⟩
  | succ n ih =>
    by_cases hmore : s.foff.toNat + 4 < s.ibuf.len
    case pos =>
      obtain ⟨u, hgo, hu⟩ := hP s h
      rw [runLoop_of_go n hmore hgo] at hrun
      exact ih hu hrun
    case neg =>
      rw [runLoop_of_end _ hmore] at hrun
      cases hrun
      exact ⟨s, h, Nat.not_lt.mp hmore, rfl⟩

/-! ### Without limits no `FRAME` stops, and none records `NoFrames` -/

theorem raise_noFramesFree {c : Cond} (hc : c ≠ .noFrames) (n : Nat) {s : State} (h : s.lastErr ≠ 6) :
    (raise c n s).lastErr ≠ 6 := by
  rw [raise_lastErr]
  split
  case isTrue =>
    cases c with
    | noFrames => exact absurd rfl hc
    | _ => decide
  case isFalse => exact h

theorem noteMissing_noFramesFree (m : Option Nat) {s : State} (h : s.lastErr ≠ 6) : (noteMissing m s).lastErr ≠ 6 := by
  cases m with
  | none => exact h
  | some a => exact raise_noFramesFree (by decide) a h

theorem keptByDecode_noFramesFree : KeptByDecode fun u => u.lastErr ≠ 6 where
  note m _ hu := noteMissing_noFramesFree m hu
  noReservoir n _ hu := raise_noFramesFree (by decide) n hu
  noWord n _ hu := raise_noFramesFree (by decide) n hu
  other _ _ _ hlast hu := hlast ▸ hu

theorem hdrBody_noFramesFree {s : State} (h : s.lastErr ≠ 6) : (hdrBody s).lastErr ≠ 6 := by
  have hread : s.headerRead.lastErr ≠ 6 := noteMissing_noFramesFree (s := clearValid s) _ h
  cases hrej : headerRejected s.headerWord with
  | true =>
    rw [hdrBody_of_rejected hrej]
    exact raise_noFramesFree (by decide) _ hread
  | false =>
    rw [hdrBody_of_accepted hrej]
    exact hread

theorem emitted_noFramesFree {s : State} (h : s.lastErr ≠ 6) : s.emitted.lastErr ≠ 6 := by
  have hflushed : s.serial.flushed.lastErr = s.lastErr := (congrArg State.lastErr s.serial.flushed_eq :)
  rw [← hflushed] at h
  unfold State.emitted
  generalize s.serial.flushed = u at h ⊢
  split
  case isTrue => exact raise_noFramesFree (by decide) _ h
  case isFalse => exact noteMissing_noFramesFree _ h

/-- What `RUN` keeps from `FRAME` to `FRAME` where no buffer is bounded. -/
structure Unhindered (len : Nat) (s : State) : Prop where
  unbounded : s.unbounded
  noFramesFree : s.lastErr ≠ 6
  inputLen : s.ibuf.len = len

theorem frameAfterHdr_unhindered {s : State} (hunbounded : s.unbounded) (h : s.lastErr ≠ 6) :
    ∃ t, frameAfterHdr s = .go t ∧ t.lastErr ≠ 6 := by
  cases hvalid : s.hValid with
  | false => exact ⟨skipByte s, frameAfterHdr_of_rejected hvalid, h⟩
  | true =>
    by_cases hsupp : s.hdr.version = 3 ∧ s.hdr.layer = 3
    case neg =>
      refine ⟨skipFrame s, frameAfterHdr_of_unsupported hvalid hsupp, ?_⟩
      exact raise_noFramesFree (c := .unsupportedFrame) (by decide) s.foff.toNat h
    case pos =>
      have hdecoded := keptByDecode_noFramesFree.frame h
      have hheaded := frameDecode_headed s
      rw [frameAfterHdr_of_supported hvalid hsupp]
      generalize frameDecode s = d at hdecoded hheaded
      have hcfg : d.cfg = s.cfg := (congrArg State.cfg hheaded :)
      have hd : d.unbounded := by
        rw [State.unbounded, hcfg]
        exact hunbounded
      have hemitted := emitted_noFramesFree hdecoded
      rw [emitBody_unbounded hd, Flow.bind_go]
      generalize d.emitted = v at hemitted
      exact ⟨advBody v, rfl, hemitted⟩

theorem frameBody_unhindered {len : Nat} {s : State} (h : Unhindered len s) :
    ∃ t, frameBody s = .go t ∧ Unhindered len t := by
  obtain ⟨hunbounded, hfree, hinputLen⟩ := h
  have hgo : ∃ t, frameBody s = .go t ∧ t.lastErr ≠ 6 := by
    by_cases hmore : s.foff.toNat + 4 < s.ibuf.len
    case neg => exact ⟨_, frameBody_of_end (Nat.not_lt.mp hmore), hfree⟩
    case pos =>
      rw [frameBody_of_more hmore]
      have hcfg : (hdrBody s).cfg = s.cfg := (congrArg State.cfg (hdrBody_input s) :)
      exact frameAfterHdr_unhindered (by rw [State.unbounded, hcfg]; exact hunbounded) (hdrBody_noFramesFree hfree)
  obtain ⟨t, hframe, hlast⟩ := hgo
  obtain ⟨hlen, hcfg⟩ := frameBody_keeps_input hframe
  exact ⟨t, hframe, by rw [State.unbounded, hcfg]; exact hunbounded, hlast, hlen.trans hinputLen⟩

/-! ### The command -/

theorem exec_run (s : State) : exec .run s = runBody (sinitBody (accept s)) := rfl

/-- `NoFrames` is recorded where no frame was emitted, and only there (R328, 60_exceptions.md R358). -/
theorem runEnd_lastErr {s : State} (h : s.lastErr ≠ 6) :
    ((runEnd s).frames = 0 → (runEnd s).lastErr = 6 ∧ (runEnd s).errInfo = (runEnd s).foff.setWidth 32) ∧
      ((runEnd s).frames ≠ 0 → (runEnd s).lastErr ≠ 6) := by
  by_cases hframes : s.frames = 0
  case pos =>
    have hend : runEnd s = { raise .noFrames s.foff.toNat s with done := true } := by
      rw [runEnd, if_pos hframes]
    rw [hend]
    exact ⟨fun _ => ⟨rfl, BitVec.ofNat_toNat 32 s.foff⟩, fun hne => absurd hframes hne⟩
  case neg =>
    have hend : runEnd s = { s with done := true } := by
      rw [runEnd, if_neg hframes]
    rw [hend]
    exact ⟨fun hzero => absurd hzero hframes, fun _ => h⟩

theorem runEnd_foff (s : State) : (runEnd s).foff = s.foff ∧ (runEnd s).done = true := by
  unfold runEnd
  split <;> exact ⟨rfl, rfl⟩

/-- Settles O48: each `FRAME` moves on, so the loop's bound suffices; without limits it reaches its end. -/
theorem runAlwaysEnds : Obligations.RunAlwaysEnds := by
  intro s hfits hsizes u
  have hu : u = sinitBody (accept s) := rfl
  have hlen : u.ibuf.len = s.ibuf.len := rfl
  have hexec : exec .run s = runBody u := exec_run s
  have hunbounded : s.unbounded → u.unbounded := id
  have hlast : u.lastErr = 0 := rfl
  have hempty : u.frames = 0 ∧ u.obuf = Buffer.empty := ⟨rfl, rfl⟩
  have hufits : u.inputFits := hfits
  have husizes : frameSizesPositive u.cfg := hsizes
  clear_value u
  by_cases hzero : s.ibuf.len = 0
  case pos =>
    have hrun : exec .run s = .next { raise .emptyInput 0 u with done := true } := by
      rw [hexec, runBody, if_pos (hlen.trans hzero)]
    refine ⟨_, hrun, fun _ => rfl, fun h => absurd hzero h.ne', fun _ => ?_, exec_run_unchanged hrun⟩
    refine ⟨rfl, fun _ => ⟨rfl, rfl, ?_, hempty.1⟩, ?_, ?_, ?_⟩
    · exact congrArg Buffer.len hempty.2
    all_goals exact fun h => absurd hzero h.ne'
  case neg =>
    rw [runBody, if_neg (by rw [hlen]; exact hzero)] at hexec
    obtain ⟨t, hloop, hgives⟩ := runLoop_ends u.ibuf.len hufits husizes (Nat.le_add_right _ _)
    have hrun : exec .run s = .next t := hexec.trans hloop
    refine ⟨t, hrun, fun h => absurd h hzero, fun _ => hgives, fun hsu => ?_, exec_run_unchanged hrun⟩
    have hstart : Unhindered s.ibuf.len u := ⟨hunbounded hsu, by rw [hlast]; decide, hlen⟩
    obtain ⟨v, hv, hend, rfl⟩ := runLoop_leaves (fun _ => frameBody_unhindered) _ hstart hloop
    obtain ⟨hnone, hsome⟩ := runEnd_lastErr hv.noFramesFree
    obtain ⟨hfoff, hdone⟩ := runEnd_foff v
    refine ⟨hdone, fun h => absurd h hzero, fun _ => ?_, fun _ => hnone, fun _ => hsome⟩
    rw [hfoff, ← hv.inputLen]
    exact hend

end Sys2Proof.Machine

/-! ## Raising and refusing (60_exceptions.md R351, R360, R361) -/

namespace Sys2Proof.Machine

/-- A raise writes `LASTERR` and `ERRINFO` unless it is a `TruncatedInput` after another condition (R351). -/
theorem latches_iff (lastErr : BitVec 4) (c : Cond) :
    latches lastErr c = true ↔ c ≠ .truncatedInput ∨ lastErr = 0 := by
  rw [latches, Bool.or_eq_true, bne_iff_ne, beq_iff_eq]

/-- Settles O7: the rule's test is the one the raise makes. -/
theorem raiseRecordsTheCondition : Obligations.RaiseRecordsTheCondition := by
  intro c info s
  have htest : ∀ {w : Nat} (new old : BitVec w), (if latches s.lastErr c = true then new else old) =
      if c ≠ .truncatedInput ∨ s.lastErr = 0 then new else old := fun _ _ => if_congr (latches_iff _ _) rfl rfl
  rw [raise, htest, htest]
  rfl

/-- A write of an illegal word to `CMD` is accepted and recorded (R361, 30_encoding.md R110). -/
theorem perform_illegal {w : Word} (h : ¬ Reference.legalWord w) (s : State) :
    perform (.regWrite 0 w) s = .next (raise .illegalCommand w.toNat (accept s)) := by
  change issue w s = _
  unfold issue
  cases hdec : decode w with
  | ok i => exact absurd ((legalWordsDecode w).mpr ⟨i, hdec⟩) h
  | error e => rfl

/-- Settles O4: a word the decoder rejects goes the way of `perform_illegal`. -/
theorem illegalWordIsRecorded : Obligations.IllegalWordIsRecorded := by
  intro s rest w hhost hw
  rw [step_of_host hhost, perform_illegal hw, accepted_eq]

/-- The test a command makes after its acceptance, always true for a command that makes none (R360). -/
def guardOf : Instr → State → Bool
  | .side => sidePre
  | .resv => (·.siValid)
  | .scf _ ch | .spec _ ch => granulePre ch
  | .hufpair _ ch _ => pairPre ch
  | .hufquad _ ch _ => quadPre ch
  | .adv | .ser => (·.hValid)
  | .emit => emitPre
  | .acencb _ | .acflush => fun s => s.acMode == .encoding
  | .acdecb => fun s => s.acMode == .decoding
  | _ => fun _ => true

theorem granulePre_iff (ch : Fin 2) (s : State) :
    granulePre ch s = true ↔ s.mdValid = true ∧ ch.val < s.hdr.channels.toNat :=
  Bool.and_eq_true_iff.trans (and_congr_right' decide_eq_true_iff)

/-- The tests are the preconditions of R360, and acceptance changes none of them. -/
theorem guardOf_accept_iff (i : Instr) (s : State) :
    guardOf i (accept s) = true ↔ Reference.precondition i s := by
  cases i with
  | side => exact Bool.and_eq_true_iff.trans (and_congr_right' (supported_iff s))
  | scf gr ch | spec gr ch => exact granulePre_iff ch s
  | hufpair gr ch tbl | hufquad gr ch sel =>
    exact (Bool.and_eq_true_iff.trans (and_congr (granulePre_iff ch s) decide_eq_true_iff)).trans and_assoc
  | emit => exact Bool.and_eq_true_iff
  | acencb y => exact beq_iff_eq
  | acdecb | acflush => exact beq_iff_eq
  | resv | adv | ser => exact Iff.rfl
  | _ => exact iff_of_true rfl trivial

/-- A command whose test fails is accepted, records `SequenceError` and does nothing else (R360). -/
theorem exec_of_guardOf_false {i : Instr} {s : State} (h : guardOf i (accept s) = false) :
    exec i s = .next (sequenceError i (accept s)) := by
  cases i with
  | side | resv | scf | adv | hufpair | hufquad | spec | acencb | acdecb | acflush | ser | emit =>
    simp only [exec, execSide, execResv, execScf, execAdv, execHufpair, execHufquad, execSpec, execAcencb, execAcdecb,
      execAcflush, execSer, execEmit]
    exact guarded_of_not_pre h
  | _ => cases h

end Sys2Proof.Machine

/-! ## The conditions met inside a command (60_exceptions.md R352, R360, R362)

`SequenceError` belongs to acceptance, and `CapacityFault` stops a body where it stands; every other condition is
recorded on the way, and the body goes on. -/

namespace Sys2Proof.Machine

/-- A predicate about `ERR`, `LASTERR` and `DONE` that every condition recorded on the way keeps. -/
structure KeptInside (P : State → Prop) : Prop where
  raise : ∀ c n s, c ≠ .sequenceError → c ≠ .capacityFault → P s → P (raise c n s)
  other : ∀ s t : State, t.err = s.err → t.lastErr = s.lastErr → t.done = s.done → P s → P t

/-- How a body ends: it went on where `P` holds, or a `CapacityFault` stopped it where `P` held (R362). -/
inductive Flow.Ends (P : State → Prop) : Flow → Prop
  | go {s : State} (h : P s) : Flow.Ends P (.go s)
  | halt (n : Nat) {s : State} (h : P s) : Flow.Ends P (.halt (raise .capacityFault n s))

theorem Flow.Ends.bind {P : State → Prop} {f : Flow} {k : State → Flow} (h : f.Ends P)
    (hk : ∀ s, P s → (k s).Ends P) : (f.bind k).Ends P := by
  cases h with
  | go h => exact hk _ h
  | halt n h => exact .halt n h

theorem Flow.Ends.state {P : State → Prop} {f : Flow} (h : f.Ends P)
    (hcap : ∀ n s, P s → P (raise .capacityFault n s)) : P f.state := by
  cases h with
  | go h => exact h
  | halt n h => exact hcap n _ h

namespace KeptInside

variable {P : State → Prop} (K : KeptInside P)
include K

/-! ### Parser and spectrum decoder -/

theorem noteMissing (m : Option Nat) {s : State} (h : P s) : P (noteMissing m s) := by
  cases m with
  | none => exact h
  | some n => exact K.raise .truncatedInput n s (by decide) (by decide) h

theorem hdr {s : State} (h : P s) : P (hdrBody s) := by
  have hread : P s.headerRead := K.noteMissing _ (K.other s (clearValid s) rfl rfl rfl h)
  cases hrej : headerRejected s.headerWord with
  | true =>
    rw [hdrBody_of_rejected hrej]
    exact K.raise .invalidFrame _ _ (by decide) (by decide) (K.other s.headerRead _ rfl rfl rfl hread)
  | false =>
    rw [hdrBody_of_accepted hrej]
    exact K.other s.headerRead _ rfl rfl rfl hread

theorem side {s : State} (h : P s) : P (sideBody s) := K.noteMissing _ (K.other s _ rfl rfl rfl h)

theorem noteCopies (b : Buffer) (parts : List (Nat × Nat)) {s : State} (h : P s) : P (noteCopies b parts s) := by
  induction parts generalizing s with
  | nil => exact h
  | cons p parts ih =>
    rw [noteCopies_cons]
    exact ih (K.noteMissing _ h)

theorem resv {s : State} (h : P s) : P (resvBody s) := by
  have hown : P s.ownCopied := K.noteMissing _ h
  by_cases hmdb : s.mdb = 0
  case pos =>
    rw [resvBody_of_mdb_zero hmdb]
    exact K.other s.ownCopied _ rfl rfl rfl hown
  case neg =>
    rw [resvBody_of_mdb_ne_zero hmdb]
    cases s.walk with
    | none =>
      have hraised := K.raise .reservoirInconsistency s.foff.toNat _ (by decide) (by decide) hown
      exact K.other (Machine.raise .reservoirInconsistency s.foff.toNat s.ownCopied) _ rfl rfl rfl hraised
    | some found =>
      exact K.other (Machine.noteCopies s.ibuf found.2 s.ownCopied) _ rfl rfl rfl (K.noteCopies _ _ hown)

theorem scf (gr ch : Fin 2) {s : State} (h : P s) : P (scfBody gr ch s) :=
  K.noteMissing _ (K.other s _ rfl rfl rfl h)

theorem adv {s : State} (h : P s) : P (advBody s) := K.other s _ rfl rfl rfl h

theorem word (gr ch : Fin 2) (vs : Option (List Int)) (c : Cursor) {s : State} (h : P s) :
    P (storeWord gr ch vs c s).1 := by
  cases vs with
  | none => exact K.raise .huffmanDecodeFailure _ _ (by decide) (by decide) (K.noteMissing _ h)
  | some vs => exact K.noteMissing _ (K.other s _ rfl rfl rfl h)

theorem spec (gr ch : Fin 2) {s : State} (h : P s) : P (specBody gr ch s).1 := by
  have hloops : P (specLoops gr ch (s.si.get gr ch) (s.granuleEnd (s.si.get gr ch)) (specStart gr ch s)).1 :=
    specLoops_keeps gr ch _ _ _ (K.other s _ rfl rfl rfl h) (fun _ _ _ hu => K.word gr ch _ _ hu)
      (fun _ _ _ hu => K.word gr ch _ _ hu)
  exact K.other (specLoops gr ch (s.si.get gr ch) (s.granuleEnd (s.si.get gr ch)) (specStart gr ch s)).1 _ rfl rfl rfl
    hloops

theorem frameDecode {s : State} (h : P s) : P (frameDecode s) := by
  have hresv : P (resvBody (zeroGranules (sideBody s))) := K.resv (K.other (sideBody s) _ rfl rfl rfl (K.side h))
  unfold Machine.frameDecode
  simp only
  split
  case isTrue =>
    exact decodeGranules_keeps _ _ hresv (fun p _ _ hu => K.scf p.1 p.2 hu) (fun p _ _ hu => K.spec p.1 p.2 hu)
  case isFalse => exact hresv

/-! ### What appends -/

theorem append (b : BufId) (v : Byte) {s : State} (h : P s) : (append b v s).Ends P := by
  rcases append_cases b v s with ⟨-, happ⟩ | ⟨-, happ⟩ <;> rw [happ]
  · exact .go (K.other s _ (setBuf_err _ _ _) (setBuf_lastErr _ _ _) (setBuf_done _ _ _) h)
  · exact .halt _ h

theorem appendAll (b : BufId) (vs : List Byte) {s : State} (h : P s) : (appendAll b vs s).Ends P := by
  induction vs generalizing s with
  | nil => exact .go h
  | cons v vs ih => exact (K.append b v h).bind fun _ => ih

theorem renormEnc (n : Nat) {s : State} (h : P s) : (renormEnc n s).Ends P := by
  induction n generalizing s with
  | zero => exact .go h
  | succ n ih =>
    unfold Machine.renormEnc
    split
    case isTrue => exact (K.append .code _ h).bind fun u hu => ih (K.other u _ rfl rfl rfl hu)
    case isFalse => exact .go h

theorem enc (y : Bool) {s : State} (h : P s) : (encBody y s).Ends P :=
  K.renormEnc 4 (K.other s _ rfl rfl rfl h)

theorem encBits (ys : List Bool) {s : State} (h : P s) : (encBits ys s).Ends P := by
  induction ys generalizing s with
  | nil => exact .go h
  | cons y ys ih => exact (K.enc y h).bind fun _ => ih

theorem flush {s : State} (h : P s) : (flushBody s).Ends P :=
  (K.appendAll .code _ h).bind fun u hu => .go (K.other u _ rfl rfl rfl hu)

theorem acenc {s : State} (h : P s) : (acencBody s).Ends P :=
  (K.encBits _ (K.other s (acinitBody .encode s) rfl rfl rfl h)).bind fun _ => K.flush

theorem ser {s : State} (h : P s) : (serBody s).Ends P := K.appendAll .plain _ (K.other s _ rfl rfl rfl h)

theorem copyHeader (n a : Nat) {s : State} (h : P s) : (copyHeader n a s).Ends P := by
  induction n generalizing a s with
  | zero => exact .go h
  | succ n ih => exact (K.append .obuf _ (K.noteMissing _ h)).bind fun _ => ih (a + 1)

theorem writeFrame {s : State} (h : P s) : (writeFrame s).Ends P := by
  refine (K.copyHeader _ _ h).bind fun u hu => ?_
  refine (K.appendAll .obuf _ hu).bind fun v hv => ?_
  exact (K.appendAll .obuf _ hv).bind fun w hw => .go (K.other w _ rfl rfl rfl hw)

theorem emit {s : State} (h : P s) : (emitBody s).Ends P := by
  refine ((K.ser h).bind fun _ => K.acenc).bind fun u hu => ?_
  unfold emitFrame
  split
  case isTrue => exact .go (K.raise .payloadOverflow _ u (by decide) (by decide) hu)
  case isFalse => exact K.writeFrame hu

/-! ### Frames -/

theorem frame_of_more {s : State} (hmore : s.foff.toNat + 4 < s.ibuf.len) (h : P s) : (frameBody s).Ends P := by
  rw [frameBody_of_more hmore]
  have hhdr := K.hdr h
  generalize hdrBody s = u at hhdr
  cases hvalid : u.hValid with
  | false =>
    rw [frameAfterHdr_of_rejected hvalid]
    exact .go (K.other u _ rfl rfl rfl hhdr)
  | true =>
    by_cases hsupp : u.hdr.version = 3 ∧ u.hdr.layer = 3
    case neg =>
      have hraised := K.raise .unsupportedFrame u.foff.toNat u (by decide) (by decide) hhdr
      rw [frameAfterHdr_of_unsupported hvalid hsupp]
      exact .go (K.other (Machine.raise .unsupportedFrame u.foff.toNat u) _ rfl rfl rfl hraised)
    case pos =>
      rw [frameAfterHdr_of_supported hvalid hsupp]
      exact (K.emit (K.frameDecode hhdr)).bind fun _ hv => .go (K.adv hv)

/-- At the end of the input `FRAME` writes `DONE`. -/
theorem frame (hdone : ∀ b s, P s → P { s with done := b }) {s : State} (h : P s) : (frameBody s).Ends P := by
  by_cases hmore : s.foff.toNat + 4 < s.ibuf.len
  case pos => exact K.frame_of_more hmore h
  case neg =>
    rw [frameBody_of_end (Nat.not_lt.mp hmore)]
    exact .go (hdone true s h)

end KeptInside

/-! ### The two loops -/

/-- Everything the loop of `RUN` can do: it comes to its end, or a `CapacityFault` stops it inside a frame
(R328, R362). -/
theorem runLoop_cases {P : State → Prop}
    (hframe : ∀ s : State, s.foff.toNat + 4 < s.ibuf.len → P s → (frameBody s).Ends P) (n : Nat) {s t : State}
    (h : P s) (he : runLoop n s = .next t) :
    ∃ u, P u ∧ (t = runEnd u ∨ ∃ k, t = raise .capacityFault k u) := by
  induction n generalizing s with
  | zero =>
    unfold runLoop at he
    split at he
    · cases he
    · exact ⟨s, h, .inl (Host.Outcome.next.inj he).symm⟩
  | succ n ih =>
    by_cases hmore : s.foff.toNat + 4 < s.ibuf.len
    case neg =>
      rw [runLoop_of_end _ hmore] at he
      exact ⟨s, h, .inl (Host.Outcome.next.inj he).symm⟩
    case pos =>
      have hends := hframe s hmore h
      generalize hbody : frameBody s = f at hends
      cases hends with
      | go hu =>
        rw [runLoop_of_go n hmore hbody] at he
        exact ih hu he
      | halt k hu =>
        rw [runLoop_of_halt n hmore hbody] at he
        exact ⟨_, hu, .inr ⟨k, (Host.Outcome.next.inj he).symm⟩⟩

/-- The three ends of the loop of `ACDEC`, after the state its last turn reached: input exhausted, the terminal
flag, `PLAIN` full (R289, R362). -/
inductive DecodeEnd (u : State) : State → Prop
  | exhausted (n : Nat) : DecodeEnd u { raise .acInputExhausted n u with acMode := .idle }
  | flag : DecodeEnd u { u with acMode := .idle }
  | full (h : u.full .plain = true) : DecodeEnd u (raise .capacityFault 2 u)

/-- Everything the loop of `ACDEC` can do: until its end it writes the coder, `RES` and `PLAIN` only. -/
theorem acdecLoop_cases {P : State → Prop} (hcoder : ∀ a r s, P s → P { s with ac := a, res := r })
    (hstore : ∀ v s, s.full .plain = false → P s → P { s with plain := s.plain.append v }) (n : Nat)
    {s t : State} (h : P s) (he : acdecLoop n s = .next t) : ∃ u, P u ∧ DecodeEnd u t := by
  induction n generalizing s with
  | zero => cases he
  | succ n ih =>
    have hsymbol : P s.symbol.1 := by
      obtain ⟨a, r, hsym⟩ := s.symbol_eq
      rw [hsym]
      exact hcoder a r s h
    cases s.decodeTurn with
    | exhausted hpos =>
      rw [acdecLoop_exhausted n hpos] at he
      cases he
      exact ⟨s, h, .exhausted _⟩
    | flag hpos hflag =>
      rw [acdecLoop_flag n hpos hflag] at he
      cases he
      exact ⟨(decBody s).1, hcoder _ _ s h, .flag⟩
    | full hpos hflag hfull =>
      rw [acdecLoop_full n hpos hflag hfull] at he
      cases he
      exact ⟨s.symbol.1, hsymbol, .full hfull⟩
    | stored hpos hflag hroom =>
      rw [acdecLoop_stored n hpos hflag hroom] at he
      exact ih (hstore _ _ hroom hsymbol) he

/-! ### Every command -/

section Exec

variable {P : State → Prop} (K : KeptInside P) (hcap : ∀ n s, P s → P (Machine.raise .capacityFault n s))
include K hcap

theorem KeptInside.acdecLoop (n : Nat) {s t : State} (h : P s) (he : acdecLoop n s = .next t) : P t := by
  obtain ⟨u, hu, hend⟩ := acdecLoop_cases (fun _ _ v hv => K.other v _ rfl rfl rfl hv)
    (fun _ v _ hv => K.other v _ rfl rfl rfl hv) n h he
  cases hend with
  | exhausted k =>
    have hraised := K.raise .acInputExhausted k u (by decide) (by decide) hu
    exact K.other (Machine.raise .acInputExhausted k u) _ rfl rfl rfl hraised
  | flag => exact K.other u _ rfl rfl rfl hu
  | full => exact hcap 2 u hu

variable (hdone : ∀ b s, P s → P { s with done := b })
include hdone

theorem KeptInside.runBody {s t : State} (h : P s) (he : runBody s = .next t) : P t := by
  unfold Machine.runBody at he
  split at he
  case isTrue =>
    cases he
    exact hdone true _ (K.raise .emptyInput 0 s (by decide) (by decide) h)
  case isFalse =>
    obtain ⟨u, hu, rfl | ⟨k, rfl⟩⟩ := runLoop_cases (fun _ hmore => K.frame_of_more hmore) _ h he
    · unfold runEnd
      split
      · exact hdone true _ (K.raise .noFrames _ u (by decide) (by decide) hu)
      · exact hdone true u hu
    · exact hcap k u hu

/-- A command whose precondition holds, other than `SRST` and `CLRERR`, keeps from its acceptance on what the
conditions met inside it keep (30_encoding.md R110). -/
theorem KeptInside.exec {i : Instr} {s t : State} (hpre : Reference.precondition i s) (hsrst : i ≠ .srst)
    (hclrerr : i ≠ .clrerr) (h : P (accept s)) (he : exec i s = .next t) : P t := by
  cases i with
  | nop => cases he; exact h
  | srst => exact absurd rfl hsrst
  | clrerr => exact absurd rfl hclrerr
  | sinit => cases he; exact K.other { accept s with done := false } _ rfl rfl rfl (hdone false _ h)
  | rdbits b adv len =>
    by_cases hlen : len ≤ 32
    case pos =>
      rw [exec_rdbits hlen] at he
      cases he
      exact K.noteMissing _ (K.other (accept s) _ rfl rfl rfl h)
    case neg =>
      rw [exec_rdbits_of_lt (Nat.lt_of_not_le hlen)] at he
      cases he
      exact K.raise .illegalCommand _ _ (by decide) (by decide) h
  | hdr => cases he; exact K.hdr h
  | side =>
    obtain ⟨hvalid, hversion, hlayer⟩ := hpre
    rw [exec_side hvalid hversion hlayer] at he
    cases he
    exact K.side h
  | resv => rw [exec_resv hpre] at he; cases he; exact K.resv h
  | scf gr ch =>
    obtain ⟨hvalid, hchannel⟩ := hpre
    rw [exec_scf hvalid hchannel] at he
    cases he
    exact K.scf gr ch h
  | adv => rw [exec_adv hpre] at he; cases he; exact K.adv h
  | hufpair gr ch tbl => rw [exec_hufpair hpre] at he; cases he; exact K.word gr ch _ _ h
  | hufquad gr ch sel => rw [exec_hufquad hpre] at he; cases he; exact K.word gr ch _ _ h
  | spec gr ch => rw [exec_spec hpre] at he; cases he; exact K.spec gr ch h
  | acinit dir => cases dir <;> cases he <;> exact K.other (accept s) _ rfl rfl rfl h
  | acencb y => rw [exec_acencb y hpre] at he; cases he; exact (K.enc y h).state hcap
  | acdecb => rw [exec_acdecb hpre] at he; cases he; exact K.other (accept s) _ rfl rfl rfl h
  | acflush => rw [exec_acflush hpre] at he; cases he; exact (K.flush h).state hcap
  | acenc => cases he; exact (K.acenc h).state hcap
  | acdec =>
    rw [exec_acdec] at he
    exact K.acdecLoop hcap _ (K.other (accept s) (acinitBody .decode (accept s)) rfl rfl rfl h) he
  | ser => rw [exec_ser hpre] at he; cases he; exact (K.ser h).state hcap
  | emit =>
    obtain ⟨hvalid, hside⟩ := hpre
    rw [exec_emit hvalid hside] at he
    cases he
    exact (K.emit h).state hcap
  | frame => cases he; exact (K.frame hdone h).state hcap
  | run =>
    have hinit : P (sinitBody (accept s)) :=
      K.other { accept s with done := false } _ rfl rfl rfl (hdone false _ h)
    exact K.runBody hcap hdone hinit he

end Exec

/-! ### `SequenceError` (R360) -/

/-- Only `SequenceError` sets its sticky bit, bit 9 (R351, R352). -/
theorem setErrBit_sequenceError (err : BitVec 13) {c : Cond} (h : c ≠ .sequenceError) :
    (setErrBit err c).getLsbD 9 = err.getLsbD 9 := by
  cases c with
  | sequenceError => exact absurd rfl h
  | _ => simp [setErrBit, Cond.code]

theorem keptInside_sequenceError (x : Bool) : KeptInside fun u => u.err.getLsbD 9 = x where
  raise _ _ u hseq _ hu := (setErrBit_sequenceError u.err hseq).trans hu
  other _ _ herr _ _ hu := herr ▸ hu

/-- Settles O8: the test of a command is its precondition, and no condition met after it sets bit 9. -/
theorem failedPreconditionIsSequenceError : Obligations.FailedPreconditionIsSequenceError := by
  refine ⟨fun i s _ hpre => ?_, fun i s t hpre hsrst hclrerr he => ?_⟩
  · rw [← guardOf_accept_iff, Bool.not_eq_true] at hpre
    exact exec_of_guardOf_false hpre
  · have hcap : ∀ (n : Nat) (u : State), (raise .capacityFault n u).err.getLsbD 9 = u.err.getLsbD 9 :=
      fun _ u => setErrBit_sequenceError u.err (c := .capacityFault) (by decide)
    exact (keptInside_sequenceError (s.err.getLsbD 9)).exec (fun n u hu => (hcap n u).trans hu) (fun _ _ hu => hu)
      hpre hsrst hclrerr rfl he

end Sys2Proof.Machine

/-! ## `CapacityFault` (60_exceptions.md R362, 20_memory.md R97) -/

namespace Sys2Proof.Machine

/-! ### Where the appends stop -/

theorem full_of_cap_le {b : BufId} {s : State} {c : Nat} (hcap : s.cap b = some c) (h : c ≤ (s.buf b).len) :
    s.full b = true := by
  rw [State.full, hcap]
  exact decide_eq_true h

/-- Appends that have room for `n` bytes only store `n` and stop (R362). -/
theorem appendAll_of_short {b : BufId} {vs : List Byte} {s : State} {n : Nat}
    (hcap : s.cap b = some ((s.buf b).len + n)) (hn : n < vs.length) :
    appendAll b vs s =
      .halt (raise .capacityFault b.id (s.setBuf b ((s.buf b).appendList (vs.take n)))) := by
  have hsplit : vs = vs.take n ++ vs[n] :: vs.drop (n + 1) := by
    rw [← List.drop_eq_getElem_cons hn, List.take_append_drop]
  have hlen : (vs.take n).length = n := List.length_take_of_le hn.le
  have hroom : s.hasRoom b (vs.take n).length := by
    intro c hc
    rw [hcap, Option.some.injEq] at hc
    omega
  have hfull : (s.setBuf b ((s.buf b).appendList (vs.take n))).full b = true := by
    refine full_of_cap_le (c := (s.buf b).len + n) ((setBuf_cap _ _ _ _).trans hcap) ?_
    rw [setBuf_buf, if_pos rfl, Buffer.appendList_len, hlen]
  conv_lhs => rw [hsplit]
  rw [appendAll_append, appendAll_of_hasRoom _ hroom, Flow.bind_go, appendAll, append_of_full hfull, Flow.bind_halt]

/-- `ACFLUSH` with room for `n` of its four bytes (R290). -/
theorem flushBody_of_short {s : State} {n : Nat} (hn : n < 4) (hcap : s.cap .code = some (s.code.len + n)) :
    flushBody s =
      .halt (raise .capacityFault 3 { s with code := s.code.appendList ((wordBytes s.ac.low).take n) }) := by
  rw [flushBody, appendAll_of_short (b := .code) (vs := wordBytes s.ac.low) hcap hn]
  rfl

/-- A decision with a byte to write and `CODE` full (R286). -/
theorem encBody_of_full {y : Bool} {s : State} (htop : (s.ac.advance s.region y).topAgree = true)
    (hfull : s.full .code = true) :
    encBody y s = .halt (raise .capacityFault 3 { s with ac := s.ac.advance s.region y }) := by
  have hfull' : ({ s with ac := s.ac.advance s.region y } : State).full .code = true := hfull
  rw [encBody, renormEnc, if_pos htop, append_of_full hfull']
  rfl

/-- `SER` with room for a part of the samples (R321). -/
theorem serBody_of_short {s : State} {c : Nat} (hcap : s.cap .plain = some c) (hc : c < (serBytes s).length) :
    serBody s =
      .halt (raise .capacityFault 2 { s with plain := Buffer.empty.appendList ((serBytes s).take c) }) := by
  have hroom : ({ s with plain := Buffer.empty } : State).cap .plain = some (Buffer.empty.len + c) :=
    hcap.trans (congrArg some (Nat.zero_add c).symm)
  rw [serBody, appendAll_of_short hroom hc]
  rfl

/-- The container writer with `OBUF` full: its first append stops (R323). -/
theorem writeFrame_of_full {s : State} (hfull : s.full .obuf = true) :
    ∃ m, writeFrame s = .halt (raise .capacityFault 4 (noteMissing m s)) := by
  obtain ⟨k, hk⟩ : ∃ k, s.prefixLen = k + 1 := ⟨_, by rw [State.prefixLen, Nat.add_assoc, Nat.add_comm 4]⟩
  have hfull' : ∀ m, (noteMissing m s).full .obuf = true := fun m => by
    rw [State.full, noteMissing_cap, noteMissing_buf]
    exact hfull
  refine ⟨copyMissing s.ibuf s.foff.toNat (s.foff.toNat + 1), ?_⟩
  rw [writeFrame, hk, copyHeader, append_of_full (hfull' _)]
  rfl

/-! ### A stop counts no frame and steps over nothing -/

/-- A composition that stopped: what its first half leaves and a stop of its second half keeps. -/
theorem Flow.of_bind_halt {P : State → Prop} {f : Flow} {k : State → Flow} {t : State} (h : f.bind k = .halt t)
    (hf : P f.state) (hk : ∀ s, P s → k s = .halt t → P t) : P t := by
  cases f with
  | go s => exact hk s hf h
  | halt s => cases h; exact hf

/-- The container writer counts a frame in its last line, after every append (R323). -/
theorem writeFrame_halt_frames {s t : State} (h : writeFrame s = .halt t) : t.frames = s.frames := by
  have happend : ∀ vs u, (appendAll .obuf vs u).state.frames = u.frames := fun vs u =>
    appendAll_unchanged_obuf vs u .frames (by decide)
  refine Flow.of_bind_halt (P := fun u => u.frames = s.frames) h ?_ fun u hu hstop => ?_
  · exact copyHeader_keeps (P := fun u => u.frames = s.frames) _ _ s rfl
      (fun m u hu => (noteMissing_frames m u).trans hu) (fun _ _ hu => hu) (fun _ _ hu => hu)
  refine Flow.of_bind_halt (P := fun u => u.frames = s.frames) hstop ((happend _ u).trans hu) fun v hv hstop => ?_
  exact Flow.of_bind_halt (P := fun u => u.frames = s.frames) hstop ((happend _ v).trans hv) fun _ _ hgo => by cases hgo

theorem emitBody_halt_frames {s t : State} (h : emitBody s = .halt t) : t.frames = s.frames := by
  refine Flow.of_bind_halt (P := fun u => u.frames = s.frames) h ?_ fun u hu hstop => ?_
  · exact Flow.state_bind (P := fun u => u.frames = s.frames) (serBody_unchanged s .frames (by decide))
      (fun _ hu => hu) fun u hu => (acencBody_unchanged u .frames (by decide)).trans hu
  · unfold emitFrame at hstop
    split at hstop
    · cases hstop
    · exact (writeFrame_halt_frames hstop).trans hu

/-- `FRAME` stops only inside its `EMIT` (R326). -/
theorem frameBody_halt {s t : State} (h : frameBody s = .halt t) :
    emitBody (frameDecode (hdrBody s)) = .halt t := by
  by_cases hmore : s.foff.toNat + 4 < s.ibuf.len
  case neg =>
    rw [frameBody_of_end (Nat.not_lt.mp hmore)] at h
    cases h
  rw [frameBody_of_more hmore] at h
  generalize hdrBody s = u at h ⊢
  cases hvalid : u.hValid with
  | false =>
    rw [frameAfterHdr_of_rejected hvalid] at h
    cases h
  | true =>
    by_cases hsupp : u.hdr.version = 3 ∧ u.hdr.layer = 3
    case neg =>
      rw [frameAfterHdr_of_unsupported hvalid hsupp] at h
      cases h
    case pos =>
      rw [frameAfterHdr_of_supported hvalid hsupp] at h
      cases hemit : emitBody (frameDecode u) with
      | go v => rw [hemit] at h; cases h
      | halt v => rw [hemit] at h; exact h

theorem frameBody_halt_keeps {s t : State} (h : frameBody s = .halt t) :
    t.frames = s.frames ∧ t.foff = s.foff ∧ t.ring = s.ring := by
  have hemit := frameBody_halt h
  obtain ⟨hinput, hframes, -, -⟩ := frameDecode_hdrBody_keeps s
  generalize frameDecode (hdrBody s) = d at hemit hinput hframes
  have hkept := emitBody_unchanged d
  rw [hemit] at hkept
  have hfoff : t.foff = d.foff := hkept .foff (by decide)
  have hring : t.ring = d.ring := hkept .ring (by decide)
  exact ⟨(emitBody_halt_frames hemit).trans hframes, hfoff.trans (congrArg State.foff hinput :),
    hring.trans (congrArg State.ring hinput :)⟩

/-! ### `LASTERR` tells a stop -/

/-- Only `CapacityFault` has the code 12, and no other condition leaves it behind (R351, R352). -/
theorem raise_lastErr_ne_twelve {c : Cond} (hc : c ≠ .capacityFault) (n : Nat) {s : State} (h : s.lastErr ≠ 12) :
    (raise c n s).lastErr ≠ 12 := by
  rw [raise_lastErr]
  split
  case isTrue =>
    cases c with
    | capacityFault => exact absurd rfl hc
    | _ => decide
  case isFalse => exact h

theorem keptInside_noStop : KeptInside fun u => u.lastErr ≠ 12 where
  raise _ n _ _ hc hu := raise_lastErr_ne_twelve hc n hu
  other _ _ _ hlast _ hu := hlast ▸ hu

/-- A body that leaves `LASTERR` 12 has stopped, if it began with another value (R362). -/
theorem Flow.Ends.halt_of_lastErr {f : Flow} (h : f.Ends fun u => u.lastErr ≠ 12) (hlast : f.state.lastErr = 12) :
    f = .halt f.state := by
  cases h with
  | go h => exact absurd hlast h
  | halt n h => rfl

/-- A command that leaves `LASTERR` 12 has met its precondition. -/
theorem guarded_of_lastErr {i : Instr} {pre : State → Bool} {body : State → State} {s t : State}
    (he : guarded i pre body s = .next t) (hlast : t.lastErr = 12) : t = body (accept s) := by
  rcases guarded_cases he with ⟨-, rfl⟩ | ⟨-, rfl⟩
  · rfl
  · cases hlast

/-- At its acceptance a command has stopped nowhere (30_encoding.md R110). -/
theorem accept_lastErr_ne_twelve (s : State) : (accept s).lastErr ≠ 12 := by
  rw [accept_lastErr]
  decide

theorem exec_emit_stop {s t : State} (he : exec .emit s = .next t) (hlast : t.lastErr = 12) :
    emitBody (accept s) = .halt t := by
  obtain rfl := guarded_of_lastErr (i := .emit) (pre := emitPre) (body := fun u => (emitBody u).state) he hlast
  exact (keptInside_noStop.emit (accept_lastErr_ne_twelve s)).halt_of_lastErr hlast

theorem exec_frame_stop {s t : State} (he : exec .frame s = .next t) (hlast : t.lastErr = 12) :
    frameBody (accept s) = .halt t := by
  rw [exec_frame] at he
  cases he
  exact (keptInside_noStop.frame (fun _ _ hu => hu) (accept_lastErr_ne_twelve s)).halt_of_lastErr hlast

/-- What `ACDEC` keeps from symbol to symbol: no stop so far, and `PLAIN` within its capacity (R289). -/
structure Decoding (c : Config) (u : State) : Prop where
  cfg : u.cfg = c
  lastErr : u.lastErr = 0
  mode : u.acMode = .decoding
  fits : ∀ n, c.plainCap = some n → u.plain.len ≤ n

theorem Decoding.append {c : Config} {u : State} (h : Decoding c u) (hroom : u.full .plain = false) (v : Byte) :
    Decoding c { u with plain := u.plain.append v } := by
  refine ⟨h.cfg, h.lastErr, h.mode, fun n hn => ?_⟩
  have hcap : u.cap .plain = some n := (congrArg Config.plainCap h.cfg).trans hn
  rw [Buffer.append_len]
  refine Nat.lt_of_not_le fun hle => ?_
  rw [full_of_cap_le hcap hle] at hroom
  cases hroom

/-- A `PLAIN` that is full while decoding is exactly at its capacity. -/
theorem Decoding.plainCap_of_full {c : Config} {u : State} (h : Decoding c u) (hfull : u.full .plain = true) :
    c.plainCap = some u.plain.len := by
  have hcap : u.cap .plain = c.plainCap := congrArg Config.plainCap h.cfg
  unfold State.full at hfull
  rw [hcap] at hfull
  cases hc : c.plainCap with
  | none => rw [hc] at hfull; cases hfull
  | some n =>
    rw [hc] at hfull
    exact congrArg some (Nat.le_antisymm (of_decide_eq_true hfull) (h.fits n hc))

theorem exec_acdec_stop {s t : State} (he : exec .acdec s = .next t) (hlast : t.lastErr = 12) :
    s.cfg.plainCap = some t.plain.len ∧ t.errInfo = 2 ∧ t.acMode = .decoding := by
  rw [exec_acdec] at he
  have hstart : Decoding s.cfg (acinitBody .decode (accept s)) := ⟨rfl, rfl, rfl, fun _ _ => Nat.zero_le _⟩
  obtain ⟨u, hu, hend⟩ := acdecLoop_cases (P := Decoding s.cfg)
    (fun _ _ _ h => ⟨h.cfg, h.lastErr, h.mode, h.fits⟩) (fun v _ hroom h => h.append hroom v) _ hstart he
  cases hend with
  | exhausted n =>
    have hne := raise_lastErr_ne_twelve (c := .acInputExhausted) (by decide) n (s := u) (by rw [hu.lastErr]; decide)
    exact absurd hlast hne
  | flag => exact absurd (hu.lastErr.symm.trans hlast) (by decide)
  | full hfull => exact ⟨hu.plainCap_of_full hfull, rfl, hu.mode⟩

/-- In the loop of `RUN` no frame has stopped yet, and `DONE` is 0 (R328). -/
theorem keptInside_running : KeptInside fun u => u.lastErr ≠ 12 ∧ u.done = false where
  raise _ n _ _ hc hu := ⟨raise_lastErr_ne_twelve hc n hu.1, hu.2⟩
  other _ _ _ hlast hdone hu := ⟨hlast ▸ hu.1, hdone ▸ hu.2⟩

theorem runEnd_lastErr_ne_twelve {s : State} (h : s.lastErr ≠ 12) : (runEnd s).lastErr ≠ 12 := by
  unfold runEnd
  split
  · exact raise_lastErr_ne_twelve (c := .noFrames) (by decide) s.foff.toNat h
  · exact h

theorem exec_run_done_iff {s t : State} (he : exec .run s = .next t) : t.done = false ↔ t.lastErr = 12 := by
  rw [exec_run] at he
  have hstart : (sinitBody (accept s)).lastErr ≠ 12 ∧ (sinitBody (accept s)).done = false :=
    ⟨accept_lastErr_ne_twelve s, rfl⟩
  generalize sinitBody (accept s) = r at he hstart
  unfold runBody at he
  split at he
  case isTrue =>
    cases he
    have hne := raise_lastErr_ne_twelve (c := .emptyInput) (by decide) 0 hstart.1
    exact ⟨nofun, fun hlast => absurd hlast hne⟩
  case isFalse =>
    obtain ⟨u, ⟨hlast, hdone⟩, rfl | ⟨k, rfl⟩⟩ :=
      runLoop_cases (fun _ hmore => keptInside_running.frame_of_more hmore) _ hstart he
    · exact iff_of_false (by rw [(runEnd_foff u).2]; decide) (runEnd_lastErr_ne_twelve hlast)
    · exact iff_of_true hdone rfl

/-! ### The stops of the commands that append -/

theorem exec_acflush_of_short {s : State} {n : Nat} (hmode : s.acMode = .encoding) (hn : n < 4)
    (hcap : s.cfg.codeCap = some (s.code.len + n)) :
    exec .acflush s = .next (raise .capacityFault 3
      { accept s with code := s.code.appendList ((wordBytes s.ac.low).take n) }) := by
  rw [exec_acflush hmode, flushBody_of_short (s := accept s) hn hcap]
  rfl

theorem exec_acencb_of_full {y : Bool} {s : State} (hmode : s.acMode = .encoding)
    (hle : s.ac.low.toNat ≤ s.ac.high.toNat) (hcap : s.cfg.codeCap = some s.code.len)
    (hbyte : Reference.goesOn (Reference.decided y s).ac = true) :
    exec (.acencb y) s = .next (raise .capacityFault 3 (Reference.decided y (accept s))) := by
  rw [Reference.decided_eq y s hle, Coder.goesOn_eq] at hbyte
  have hfull : (accept s).full .code = true := full_of_cap_le hcap (Nat.le_refl _)
  rw [exec_acencb y hmode, encBody_of_full (s := accept s) hbyte hfull, Reference.decided_eq y (accept s) hle]
  rfl

theorem emitBody_of_ser_halt {s t : State} (h : serBody s = .halt t) : emitBody s = .halt t := by
  rw [emitBody, h]
  rfl

/-- `EMIT` with `OBUF` full and the other buffers unbounded (R323). -/
theorem emitBody_of_full {s : State} (hplain : s.cap .plain = none) (hcode : s.cap .code = none)
    (hfull : s.full .obuf = true) :
    (emitBody s).state.obuf = s.obuf ∧ (emitBody s).state.frames = s.frames ∧
      ((emitBody s).state.code.len ≤ 65535 →
        (emitBody s).state.lastErr = 12 ∧ (emitBody s).state.errInfo = 4) := by
  have hacenc : acencBody s.serial = .go s.serial.flushed := acencBody_unbounded (s := s.serial) hcode
  have hbody : emitBody s = emitFrame s.serial.flushed := by
    rw [emitBody, serBody_unbounded hplain, Flow.bind_go, hacenc, Flow.bind_go]
  have heq := s.serial.flushed_eq
  generalize s.serial.flushed = u at hbody heq
  have hobuf : u.obuf = s.obuf := (congrArg State.obuf heq :)
  have hframes : u.frames = s.frames := (congrArg State.frames heq :)
  have hufull : u.full .obuf = true := (congrArg (fun v : State => v.full .obuf) heq :).trans hfull
  rw [hbody]
  unfold emitFrame
  split
  case isTrue hlen => exact ⟨hobuf, hframes, fun hle => absurd hlen (Nat.not_lt.mpr hle)⟩
  case isFalse =>
    obtain ⟨m, hwrite⟩ := writeFrame_of_full hufull
    rw [hwrite]
    exact ⟨(noteMissing_obuf m u).trans hobuf, (noteMissing_frames m u).trans hframes, fun _ => ⟨rfl, rfl⟩⟩

/-- Settles O9: each clause is where one body stops, or what a stop leaves. -/
theorem fullBufferStopsTheCommand : Obligations.FullBufferStopsTheCommand := by
  refine ⟨fun b v s hcap => append_of_full (full_of_cap_le hcap (Nat.le_refl _)) v, fun s hmode hcap => ?_,
    fun s n hmode hn hcap => ⟨_, exec_acflush_of_short hmode hn hcap, Buffer.bytes_appendList _ _⟩,
    fun y s hmode hle hcap hbyte => exec_acencb_of_full hmode hle hcap hbyte,
    fun s c hvalid hchannels hcap hc => ?_, fun s hvalid hside hplain hcode hobuf => ?_,
    fun s t he hlast => emitBody_halt_frames (s := accept s) (exec_emit_stop he hlast),
    fun s t he hlast => frameBody_halt_keeps (s := accept s) (exec_frame_stop he hlast),
    fun s t => exec_acdec_stop, fun s t => exec_run_done_iff⟩
  · exact exec_acflush_of_short (n := 0) hmode (by decide) hcap
  · have hbytes := Reference.plainStream_eq_serBytes hchannels
    rw [← Reference.plainStream_length s.samp, hbytes] at hc
    have hser := serBody_of_short (s := accept s) hcap hc
    refine ⟨Buffer.empty.appendList ((serBytes s).take c), ?_, ?_, fun hside => ?_⟩
    · rw [hbytes]
      exact Buffer.bytes_appendList _ _
    · rw [exec_ser hvalid, hser]
      rfl
    · rw [exec_emit hvalid hside, emitBody_of_ser_halt hser]
      rfl
  · exact ⟨_, exec_emit hvalid hside,
      emitBody_of_full (s := accept s) hplain hcode (full_of_cap_le hobuf (Nat.le_refl _))⟩

end Sys2Proof.Machine

/-! ## After power-on reset (70_reset_and_hazards.md R390) -/

namespace Sys2Proof.Machine

open Sys2Proof.Reference

/-! ### What the host reads (10_state.md R60) -/

/-- What each register number reads after reset. -/
def resetReading (n : Nat) : Word :=
  if n = 0x05 then 1 else if n = 0x06 then 20 else if n = 0x61 then 0xFFFFFFFF else if n = 0x63 then 1 else 0

theorem resetReading_of_ge {n : Nat} (h : 0x64 ≤ n) : resetReading n = 0 := by
  unfold resetReading
  repeat rw [if_neg (by omega)]

/-- The four side-information blocks are 0 (10_state.md R40). -/
theorem sideBlocks_get_reset (gr ch : Fin 2) : State.reset.si.get gr ch = SideBlock.reset := by
  fin_cases gr <;> fin_cases ch <;> rfl

theorem blockFields_reset : ∀ off < 19, (blockFields SideBlock.reset).getD off 0 = 0 := by
  decide

/-- Rows of the register map that hold what is read after reset. -/
abbrev HoldResetValues (rows : List (Nat × Nat)) : Prop :=
  ∀ r ∈ rows, BitVec.ofNat 32 r.2 = resetReading r.1

theorem blockMap_reset (gr ch : Fin 2) : HoldResetValues (blockMap gr ch State.reset) := by
  intro r hr
  obtain ⟨off, hoff, rfl⟩ := mem_blockMap.mp hr
  rw [sideBlocks_get_reset, blockFields_reset off hoff, resetReading_of_ge (by simp only; omega)]
  rfl

theorem registerMap_reset : HoldResetValues (registerMap State.reset) := by
  intro r hr
  rcases mem_registerMap.mp hr with h | h | h | h | h | ⟨gr, ch, h⟩
  · exact (by decide : HoldResetValues (controlMap State.reset)) r h
  · exact (by decide : HoldResetValues (headerMap Header.reset)) r h
  · exact (by decide : HoldResetValues (ringMap [])) r h
  · exact (by decide : HoldResetValues (sideMap State.reset)) r h
  · exact (by decide : HoldResetValues (coderMap Coder.reset)) r h
  · exact blockMap_reset gr ch r h

/-- `CFG_MODEL`, `CFG_NREG`, `HIGH` and `CTX` have a row in the register map. -/
theorem exists_row_of_resetReading_ne_zero {n : Nat} (h : resetReading n ≠ 0) :
    ∃ r ∈ registerMap State.reset, r.1 = n := by
  have hnumber : n = 0x05 ∨ n = 0x06 ∨ n = 0x61 ∨ n = 0x63 := by
    by_contra hother
    simp only [not_or] at hother
    obtain ⟨h05, h06, h61, h63⟩ := hother
    exact h (by simp only [resetReading, h05, h06, h61, h63, if_false])
  rcases hnumber with rfl | rfl | rfl | rfl <;> decide

theorem regRead_reset (n : Nat) : State.reset.regRead n = resetReading n := by
  by_cases hrow : ∃ r ∈ registerMap State.reset, r.1 = n
  · obtain ⟨r, hmem, rfl⟩ := hrow
    rw [regRead_listed _ r hmem, registerMap_reset r hmem]
  · have hzero : resetReading n = 0 := not_not.mp (mt exists_row_of_resetReading_ne_zero hrow)
    rw [hzero]
    exact regRead_unlisted _ n fun r hmem hn => hrow ⟨r, hmem, hn⟩

theorem buf_reset (b : BufId) : State.reset.buf b = Buffer.empty := by
  cases b <;> rfl

/-- Settles O14: a listed register reads its row of the map, an unlisted number 0; the buffers and memories
are empty lists. -/
theorem resetValues : Obligations.ResetValues :=
  ⟨regRead_reset, fun b => congrArg Buffer.len (buf_reset b),
    fun a => ⟨Memory.read_nil a, Memory.read_nil a, Memory.read_nil a, Memory.read_nil a⟩⟩

/-! ### The invariants -/

/-- `CFG_NREG = 20` is a legal region count (10_state.md R28). -/
theorem cfgNreg_reset : 1 ≤ State.reset.cfgNreg.toNat ∧ State.reset.cfgNreg.toNat ≤ 32 := by
  decide

theorem memWf_reset : State.reset.MemWf where
  ibuf := Buffer.wf_empty
  mdbuf := Buffer.wf_empty
  plain := Buffer.wf_empty
  code := Buffer.wf_empty
  obuf := Buffer.wf_empty
  scfL := Memory.wf_nil _
  scfS := Memory.wf_nil _
  samp := Memory.wf_nil _
  cnt := Coder.reset_modelOk.cntWf
  ctx := Coder.reset_modelOk.ctx.2
  nreg := cfgNreg_reset

theorem coderOk_reset : State.reset.CoderOk :=
  (coderOk_iff _).mpr
    ⟨Coder.reset.fresh_ready, Coder.reset_modelOk, fun hmode => (nomatch hmode), cfgNreg_reset⟩

theorem framingLegal_reset : State.reset.FramingLegal where
  nreg := cfgNreg_reset
  ring := Nat.zero_le _
  nzc gr ch := by
    rw [sideBlocks_get_reset]
    exact Nat.zero_le _
  scf12 _ _ _ _ := Memory.read_nil _

theorem regsLegal_reset : State.reset.RegsLegal :=
  (regsLegal_iff _).mpr ⟨⟨BitVec.getLsbD_zero, Nat.zero_le _⟩, framingLegal_reset⟩

/-- Settles O58: no valid bit is set, so nothing is claimed of a frame; no decoder runs; the memories are
empty and the registers hold legal values. -/
theorem invariantsHoldAtReset : Obligations.InvariantsHoldAtReset :=
  have ⟨_, hmdbuf⟩ : State.reset.DefaultMdbufFits := defaultMdbufFits_of_invalid rfl (Nat.zero_le _) rfl rfl
  ⟨memWf_reset, hmdbuf, validChain_of_invalid rfl rfl, coderOk_reset, cposOk_of_ne nofun, regsLegal_reset,
    describesFrame_of_invalid rfl rfl, samplesInRange_of_zero Memory.read_nil⟩

end Sys2Proof.Machine
